-- ==== Sys2Proof/Word.lean ====
section
/-! DEFINITION. The word types of the block (`00_scope.md` R6, R7; `10_state.md` R32). All values are unsigned, and
bit `n` of a block has weight `2^n` (D3, log 8). -/
namespace Sys2Proof

/-- One character, the unit of every buffer: 8 bits, never interpreted (`20_memory.md` R58). -/
abbrev Byte := BitVec 8

/-- One block A, B, C or D of a group, and one slot of the Register Source's file (BLOCK_W = 16, `00_scope.md` R6). -/
abbrev Word := BitVec 16

/-- An address of RT_BUF, 0 to 63: "the products are at most 60 and fit 6 bits" (`20_memory.md` R53). -/
abbrev Addr := BitVec 6

/-- A byte offset 0 to 7 into a service-name buffer (`10_state.md` R32 (b)). -/
abbrev NameIdx := BitVec 3

/-- Eight 8-bit registers: PS_CAND, PS_CONF, PS_PUB and a published name (PS_LEN = 8, `00_scope.md` R6). -/
abbrev NameBuf := Vector Byte 8

/-- The 64 characters of RT_BUF in address order (RT_LEN = 64, `00_scope.md` R6). -/
abbrev TextBuf := Vector Byte 64

/-- The value of a radio-text event: 64 characters and the terminator (`42_radio_text.md` R147). -/
abbrev TextEvent := Vector Byte 65

/-- The Register Source's file, `[16]u16` (REGFILE_SLOTS = 16, `20_memory.md` R56). -/
abbrev RegisterFile := Vector Word 16

end Sys2Proof
end

