-- ==== Sys2Proof/Syntax.lean ====
section
/-! DEFINITION. One transaction as the environment presents it (`30_encoding.md` R70), and the 34 operations it can
select (R81, `spec/opcode_table.json`), one constructor per row, with the operands that the operation rules read
(R78, R79). -/
namespace Sys2Proof

/-- The version flag of a group: bit 11 of block B, 0 = A, 1 = B (`30_encoding.md` R71). -/
inductive Version
  | a
  | b
  deriving DecidableEq, Repr

/-- One transaction: two control bits and the four blocks of a group (`00_scope.md` R9, `30_encoding.md` R70). -/
structure Transaction where
  /-- The reset bit. -/
  rst : Bool
  /-- The data-ready bit. -/
  ready : Bool
  /-- Block A: no rule reads it. -/
  a : Word
  /-- Block B: group type, toggle flag, segment index. -/
  b : Word
  /-- Block C: the first two characters of a version-A text segment. -/
  c : Word
  /-- Block D: a character pair. -/
  d : Word
  deriving DecidableEq, Repr

/-- The operations. A segment index has exactly the width of its field, so "any segment index arriving outside its
expected range is structurally impossible" (`20_memory.md` R53). -/
inductive Instr
  /-- RST: reset (`70_reset_and_hazards.md` R221). -/
  | rst
  /-- IDLE: no group is ready (`40_classifier.md` R106). -/
  | idle
  /-- PS0A: service-name group, version A (`41_service_name.md` R124). -/
  | ps0a (seg : BitVec 2) (c0 c1 : Byte)
  /-- PS0B: service-name group, version B (`41_service_name.md` R125). -/
  | ps0b (seg : BitVec 2) (c0 c1 : Byte)
  /-- RT2A: radio-text group, version A (`42_radio_text.md` R150). -/
  | rt2a (tog : Bool) (seg : BitVec 4) (c0 c1 c2 c3 : Byte)
  /-- RT2B: radio-text group, version B (`42_radio_text.md` R151). -/
  | rt2b (tog : Bool) (seg : BitVec 4) (c0 c1 : Byte)
  /-- IGN1A (`43_ignored_groups.md` R260). -/
  | ign1a
  /-- IGN1B (`43_ignored_groups.md` R261). -/
  | ign1b
  /-- IGN3A (`43_ignored_groups.md` R262). -/
  | ign3a
  /-- IGN3B (`43_ignored_groups.md` R263). -/
  | ign3b
  /-- IGN4A (`43_ignored_groups.md` R264). -/
  | ign4a
  /-- IGN4B (`43_ignored_groups.md` R265). -/
  | ign4b
  /-- IGN5A (`43_ignored_groups.md` R266). -/
  | ign5a
  /-- IGN5B (`43_ignored_groups.md` R267). -/
  | ign5b
  /-- IGN6A (`43_ignored_groups.md` R268). -/
  | ign6a
  /-- IGN6B (`43_ignored_groups.md` R269). -/
  | ign6b
  /-- IGN7A (`43_ignored_groups.md` R270). -/
  | ign7a
  /-- IGN7B (`43_ignored_groups.md` R271). -/
  | ign7b
  /-- IGN8A (`43_ignored_groups.md` R272). -/
  | ign8a
  /-- IGN8B (`43_ignored_groups.md` R273). -/
  | ign8b
  /-- IGN9A (`43_ignored_groups.md` R274). -/
  | ign9a
  /-- IGN9B (`43_ignored_groups.md` R275). -/
  | ign9b
  /-- IGN10A (`43_ignored_groups.md` R276). -/
  | ign10a
  /-- IGN10B (`43_ignored_groups.md` R277). -/
  | ign10b
  /-- IGN11A (`43_ignored_groups.md` R278). -/
  | ign11a
  /-- IGN11B (`43_ignored_groups.md` R279). -/
  | ign11b
  /-- IGN12A (`43_ignored_groups.md` R280). -/
  | ign12a
  /-- IGN12B (`43_ignored_groups.md` R281). -/
  | ign12b
  /-- IGN13A (`43_ignored_groups.md` R282). -/
  | ign13a
  /-- IGN13B (`43_ignored_groups.md` R283). -/
  | ign13b
  /-- IGN14A (`43_ignored_groups.md` R284). -/
  | ign14a
  /-- IGN14B (`43_ignored_groups.md` R285). -/
  | ign14b
  /-- IGN15A (`43_ignored_groups.md` R286). -/
  | ign15a
  /-- IGN15B (`43_ignored_groups.md` R287). -/
  | ign15b
  deriving DecidableEq, Repr

/-- The 28 operations of the ignored group types, in the order of `30_encoding.md` R81. -/
def Instr.ignoredOps : List Instr :=
  [.ign1a, .ign1b, .ign3a, .ign3b, .ign4a, .ign4b, .ign5a, .ign5b, .ign6a, .ign6b,
   .ign7a, .ign7b, .ign8a, .ign8b, .ign9a, .ign9b, .ign10a, .ign10b, .ign11a, .ign11b,
   .ign12a, .ign12b, .ign13a, .ign13b, .ign14a, .ign14b, .ign15a, .ign15b]

end Sys2Proof
end

