-- ==== Sys2Proof/WellFormed.lean ====
section
/-! DEFINITION. What makes an operation and a transaction well formed. No operation is ill formed: its operands have
exactly their fields' widths, and `Instr.wellFormed` is the bound that `60_exceptions.md` R193 lets a model state as a
lemma. A transaction can fail to be canonical (`30_encoding.md` R84); the block takes it all the same (R82). -/
namespace Sys2Proof

/-- The bytes an operation addresses lie inside its buffer: `off + 1 <= 7` and `addr + w - 1 <= 63`
(`60_exceptions.md` R193, `20_memory.md` R53). -/
def Instr.wellFormed : Instr → Bool
  | .ps0a seg _ _ => 2 * seg.toNat + 1 ≤ 7
  | .ps0b seg _ _ => 2 * seg.toNat + 1 ≤ 7
  | .rt2a _ seg _ _ _ _ => seg.toNat * 4 + 3 ≤ 63
  | .rt2b _ seg _ _ => seg.toNat * 2 + 1 ≤ 63
  | .rst | .idle
  | .ign1a | .ign1b | .ign3a | .ign3b | .ign4a | .ign4b | .ign5a | .ign5b | .ign6a | .ign6b
  | .ign7a | .ign7b | .ign8a | .ign8b | .ign9a | .ign9b | .ign10a | .ign10b | .ign11a | .ign11b
  | .ign12a | .ign12b | .ign13a | .ign13b | .ign14a | .ign14b | .ign15a | .ign15b => true

/-- Canonical transactions: every bit and block that the transaction's format does not name is 0 (`30_encoding.md`
R84). In RST and IDLE that is everything but the two control bits; otherwise the format of block B's group number
(R73 to R76) says which bits are named. -/
def Transaction.canonical (t : Transaction) : Bool :=
  if t.rst then
    !t.ready && t.a == 0 && t.b == 0 && t.c == 0 && t.d == 0
  else if t.ready then
    t.a == 0 &&
    if t.b.extractLsb' 12 4 == 0 then t.b.extractLsb' 2 9 == 0 && t.c == 0
    else if t.b.extractLsb' 12 4 == 2 then t.b.extractLsb' 5 6 == 0 && (!t.b.getLsbD 11 || t.c == 0)
    else t.b.extractLsb' 0 11 == 0 && t.c == 0 && t.d == 0
  else
    t.a == 0 && t.b == 0 && t.c == 0 && t.d == 0

end Sys2Proof
end

