-- ==== Sys2Proof/Decode.lean ====
section
/-! DEFINITION. The transaction layout, the group classifier, the total decoder and the encoder (`30_encoding.md`
R70 to R84, `40_classifier.md` R100 to R105). Bit positions rest on D3, D4 and D5 (log 8, 9, 10). -/
namespace Sys2Proof

/-! ### Layout of a transaction -/

/-- The 66-bit value `rst ++ ready ++ A ++ B ++ C ++ D` (`30_encoding.md` R70). -/
def Transaction.toBits (t : Transaction) : BitVec 66 :=
  BitVec.ofBool t.rst ++ BitVec.ofBool t.ready ++ t.a ++ t.b ++ t.c ++ t.d

/-- The transaction that a 66-bit value is (`30_encoding.md` R70). -/
def Transaction.ofBits (v : BitVec 66) : Transaction where
  rst := v.getLsbD 65
  ready := v.getLsbD 64
  a := v.extractLsb' 48 16
  b := v.extractLsb' 32 16
  c := v.extractLsb' 16 16
  d := v.extractLsb' 0 16

/-- The operation word `W = rst ++ ready ++ B` (`30_encoding.md` R70). -/
def Transaction.opWord (t : Transaction) : BitVec 18 :=
  BitVec.ofBool t.rst ++ BitVec.ofBool t.ready ++ t.b

/-- The transaction with operation word `w` and blocks A, C and D zero (log 21). -/
def Transaction.ofOpWord (w : BitVec 18) : Transaction where
  rst := w.getLsbD 17
  ready := w.getLsbD 16
  a := 0
  b := w.extractLsb' 0 16
  c := 0
  d := 0

/-! ### The classifier -/

/-- A group type: group number and version (`40_classifier.md` R100). -/
structure GroupType where
  gn : BitVec 4
  ver : Version
  deriving DecidableEq, Repr

/-- The version flag as the bit it is: 0 = A, 1 = B (`30_encoding.md` R71). -/
def Version.toBit : Version → BitVec 1
  | .a => 0
  | .b => 1

/-- `GroupType(B) = (B[15:12], B[11])` (`40_classifier.md` R100). -/
def groupType (b : Word) : GroupType where
  gn := b.extractLsb' 12 4
  ver := if b.getLsbD 11 then .b else .a

/-- The 5-bit number `t = gn ++ ver` of a group type (`30_encoding.md` R77). -/
def GroupType.number (t : GroupType) : BitVec 5 :=
  t.gn ++ t.ver.toBit

/-- "group number 0, either version" (`40_classifier.md` R101). -/
def isServiceNameGroup (t : GroupType) : Bool :=
  t.gn == 0

/-- "group number 2, either version", "returning which version (A/B) applies" (`40_classifier.md` R102). -/
def isRadioTextGroup (t : GroupType) : Option Version :=
  if t.gn == 2 then some t.ver else none

/-! ### Fields of a group (`30_encoding.md` R71) -/

/-- `B[1:0]`, the service-name segment index. -/
def psSegField (b : Word) : BitVec 2 := b.extractLsb' 0 2

/-- `B[3:0]`, the radio-text segment index (D4, log 9). -/
def rtSegField (b : Word) : BitVec 4 := b.extractLsb' 0 4

/-- `B[4]`, the toggle flag. -/
def toggleField (b : Word) : Bool := b.getLsbD 4

/-- The earlier character of a block: its more significant byte (`20_memory.md` R51, D5, log 10). -/
def firstChar (x : Word) : Byte := x.extractLsb' 8 8

/-- The later character of a block (`20_memory.md` R51). -/
def secondChar (x : Word) : Byte := x.extractLsb' 0 8

/-! ### The decoder -/

/-- The operation of a ready group, by group type (`40_classifier.md` R105). All 32 types have one; the last arm is
type 31, 15B. -/
def decodeGroup (t : Transaction) : Instr :=
  match (groupType t.b).number.toNat with
  | 0 => .ps0a (psSegField t.b) (firstChar t.d) (secondChar t.d)
  | 1 => .ps0b (psSegField t.b) (firstChar t.d) (secondChar t.d)
  | 2 => .ign1a
  | 3 => .ign1b
  | 4 => .rt2a (toggleField t.b) (rtSegField t.b) (firstChar t.c) (secondChar t.c) (firstChar t.d) (secondChar t.d)
  | 5 => .rt2b (toggleField t.b) (rtSegField t.b) (firstChar t.d) (secondChar t.d)
  | 6 => .ign3a
  | 7 => .ign3b
  | 8 => .ign4a
  | 9 => .ign4b
  | 10 => .ign5a
  | 11 => .ign5b
  | 12 => .ign6a
  | 13 => .ign6b
  | 14 => .ign7a
  | 15 => .ign7b
  | 16 => .ign8a
  | 17 => .ign8b
  | 18 => .ign9a
  | 19 => .ign9b
  | 20 => .ign10a
  | 21 => .ign10b
  | 22 => .ign11a
  | 23 => .ign11b
  | 24 => .ign12a
  | 25 => .ign12b
  | 26 => .ign13a
  | 27 => .ign13b
  | 28 => .ign14a
  | 29 => .ign14b
  | 30 => .ign15a
  | _ => .ign15b

/-- Selection of the operation, in this order of priority: reset, then ready, then the group type (`30_encoding.md`
R80). Total: no transaction is illegal (R82). -/
def decode (t : Transaction) : Instr :=
  if t.rst then .rst
  else if t.ready then decodeGroup t
  else .idle

/-- The operation that 66 bits select (`30_encoding.md` R70, R80). -/
def decodeBits (v : BitVec 66) : Instr := decode (Transaction.ofBits v)

/-- The host's reading of a table word: its bits are `W`, bit 0 the least significant bit of block B; blocks A, C and
D, which the table gives no bits, are zero (log 21). A number with a bit above `W`'s 18 bits (or above the `nbits` it
is said to have) is no table word. -/
def decodeTableWord (nbits w : Nat) : Option Instr :=
  if w < 2 ^ min nbits 18 then some (decode (Transaction.ofOpWord (BitVec.ofNat 18 w))) else none

/-! ### The encoder: the canonical transaction of an operation (`30_encoding.md` R84) -/

/-- Block B of format PS (`30_encoding.md` R73), unread bits zero. -/
def blockPS (ver : Version) (seg : BitVec 2) : Word :=
  0#4 ++ ver.toBit ++ 0#9 ++ seg

/-- Block B of formats RTA and RTB (`30_encoding.md` R74, R75), unread bits zero. -/
def blockRT (ver : Version) (tog : Bool) (seg : BitVec 4) : Word :=
  2#4 ++ ver.toBit ++ 0#6 ++ BitVec.ofBool tog ++ seg

/-- Block B of format IGN (`30_encoding.md` R76), unread bits zero. -/
def blockIGN (gn : BitVec 4) (ver : Version) : Word :=
  gn ++ ver.toBit ++ 0#11

/-- A ready group with block A zero. -/
def readyGroup (b c d : Word) : Transaction :=
  { rst := false, ready := true, a := 0, b := b, c := c, d := d }

/-- The canonical transaction: bits and blocks the notation does not name are 0 (`30_encoding.md` R84). -/
def encode : Instr → Transaction
  | .rst => { rst := true, ready := false, a := 0, b := 0, c := 0, d := 0 }
  | .idle => { rst := false, ready := false, a := 0, b := 0, c := 0, d := 0 }
  | .ps0a seg c0 c1 => readyGroup (blockPS .a seg) 0 (c0 ++ c1)
  | .ps0b seg c0 c1 => readyGroup (blockPS .b seg) 0 (c0 ++ c1)
  | .rt2a tog seg c0 c1 c2 c3 => readyGroup (blockRT .a tog seg) (c0 ++ c1) (c2 ++ c3)
  | .rt2b tog seg c0 c1 => readyGroup (blockRT .b tog seg) 0 (c0 ++ c1)
  | .ign1a => readyGroup (blockIGN 1 .a) 0 0
  | .ign1b => readyGroup (blockIGN 1 .b) 0 0
  | .ign3a => readyGroup (blockIGN 3 .a) 0 0
  | .ign3b => readyGroup (blockIGN 3 .b) 0 0
  | .ign4a => readyGroup (blockIGN 4 .a) 0 0
  | .ign4b => readyGroup (blockIGN 4 .b) 0 0
  | .ign5a => readyGroup (blockIGN 5 .a) 0 0
  | .ign5b => readyGroup (blockIGN 5 .b) 0 0
  | .ign6a => readyGroup (blockIGN 6 .a) 0 0
  | .ign6b => readyGroup (blockIGN 6 .b) 0 0
  | .ign7a => readyGroup (blockIGN 7 .a) 0 0
  | .ign7b => readyGroup (blockIGN 7 .b) 0 0
  | .ign8a => readyGroup (blockIGN 8 .a) 0 0
  | .ign8b => readyGroup (blockIGN 8 .b) 0 0
  | .ign9a => readyGroup (blockIGN 9 .a) 0 0
  | .ign9b => readyGroup (blockIGN 9 .b) 0 0
  | .ign10a => readyGroup (blockIGN 10 .a) 0 0
  | .ign10b => readyGroup (blockIGN 10 .b) 0 0
  | .ign11a => readyGroup (blockIGN 11 .a) 0 0
  | .ign11b => readyGroup (blockIGN 11 .b) 0 0
  | .ign12a => readyGroup (blockIGN 12 .a) 0 0
  | .ign12b => readyGroup (blockIGN 12 .b) 0 0
  | .ign13a => readyGroup (blockIGN 13 .a) 0 0
  | .ign13b => readyGroup (blockIGN 13 .b) 0 0
  | .ign14a => readyGroup (blockIGN 14 .a) 0 0
  | .ign14b => readyGroup (blockIGN 14 .b) 0 0
  | .ign15a => readyGroup (blockIGN 15 .a) 0 0
  | .ign15b => readyGroup (blockIGN 15 .b) 0 0

/-- The canonical transaction of an operation as 66 bits. -/
def encodeBits (i : Instr) : BitVec 66 := (encode i).toBits

/-! ### The operation map (`30_encoding.md` R81, `spec/opcode_table.json`) -/

/-- One row of the operation map over `W`. -/
structure OpRow where
  mnemonic : String
  mask : BitVec 18
  pattern : BitVec 18
  deriving DecidableEq, Repr

/-- The row of an operation, its mask and match as the table gives them. -/
def Instr.row : Instr → OpRow
  | .rst => ⟨"RST", 0x20000, 0x20000⟩
  | .idle => ⟨"IDLE", 0x30000, 0x00000⟩
  | .ps0a _ _ _ => ⟨"PS0A", 0x3F800, 0x10000⟩
  | .ps0b _ _ _ => ⟨"PS0B", 0x3F800, 0x10800⟩
  | .rt2a _ _ _ _ _ _ => ⟨"RT2A", 0x3F800, 0x12000⟩
  | .rt2b _ _ _ _ => ⟨"RT2B", 0x3F800, 0x12800⟩
  | .ign1a => ⟨"IGN1A", 0x3F800, 0x11000⟩
  | .ign1b => ⟨"IGN1B", 0x3F800, 0x11800⟩
  | .ign3a => ⟨"IGN3A", 0x3F800, 0x13000⟩
  | .ign3b => ⟨"IGN3B", 0x3F800, 0x13800⟩
  | .ign4a => ⟨"IGN4A", 0x3F800, 0x14000⟩
  | .ign4b => ⟨"IGN4B", 0x3F800, 0x14800⟩
  | .ign5a => ⟨"IGN5A", 0x3F800, 0x15000⟩
  | .ign5b => ⟨"IGN5B", 0x3F800, 0x15800⟩
  | .ign6a => ⟨"IGN6A", 0x3F800, 0x16000⟩
  | .ign6b => ⟨"IGN6B", 0x3F800, 0x16800⟩
  | .ign7a => ⟨"IGN7A", 0x3F800, 0x17000⟩
  | .ign7b => ⟨"IGN7B", 0x3F800, 0x17800⟩
  | .ign8a => ⟨"IGN8A", 0x3F800, 0x18000⟩
  | .ign8b => ⟨"IGN8B", 0x3F800, 0x18800⟩
  | .ign9a => ⟨"IGN9A", 0x3F800, 0x19000⟩
  | .ign9b => ⟨"IGN9B", 0x3F800, 0x19800⟩
  | .ign10a => ⟨"IGN10A", 0x3F800, 0x1A000⟩
  | .ign10b => ⟨"IGN10B", 0x3F800, 0x1A800⟩
  | .ign11a => ⟨"IGN11A", 0x3F800, 0x1B000⟩
  | .ign11b => ⟨"IGN11B", 0x3F800, 0x1B800⟩
  | .ign12a => ⟨"IGN12A", 0x3F800, 0x1C000⟩
  | .ign12b => ⟨"IGN12B", 0x3F800, 0x1C800⟩
  | .ign13a => ⟨"IGN13A", 0x3F800, 0x1D000⟩
  | .ign13b => ⟨"IGN13B", 0x3F800, 0x1D800⟩
  | .ign14a => ⟨"IGN14A", 0x3F800, 0x1E000⟩
  | .ign14b => ⟨"IGN14B", 0x3F800, 0x1E800⟩
  | .ign15a => ⟨"IGN15A", 0x3F800, 0x1F000⟩
  | .ign15b => ⟨"IGN15B", 0x3F800, 0x1F800⟩

/-- A transaction fits a row when the masked operation word equals the row's pattern. -/
def OpRow.fits (r : OpRow) (t : Transaction) : Bool :=
  t.opWord &&& r.mask == r.pattern

end Sys2Proof
end

