-- ==== Sys2Proof/Config.lean ====
section
/-! DEFINITION. The implementation parameters: the rows that `00_scope.md` R6 marks "parameter". Their default values
stand in `Sys2Proof/Machine/Defaults.lean`. No free value is needed: the spec leaves no result of an operation open. -/
namespace Sys2Proof

/-- The parameters of `00_scope.md` R6, fixed for one implementation. A claim about every state is a claim about every
value of these (log 5). -/
structure Config where
  /-- READY_BIT: the bit of slot 10 that is the ready bit. -/
  readyBit : Fin 16
  /-- RT_BLANK: the byte a cleared RT_BUF holds. -/
  rtBlank : Byte
  /-- PS_CAND_RESET. -/
  psCandReset : NameBuf
  /-- PS_CONF_RESET. -/
  psConfReset : NameBuf
  /-- PS_PUB_RESET. -/
  psPubReset : NameBuf
  /-- RT_TOGGLE_RESET. -/
  rtToggleReset : Bool
  deriving DecidableEq, Repr

end Sys2Proof
end

