-- ==== Sys2Proof/Machine/Defaults.lean ====
section
/-! DEFINITION. The default values of the implementation parameters (`00_scope.md` R6). -/
namespace Sys2Proof.Machine

/-- The defaults of `00_scope.md` R6: READY_BIT = 15 (D6), RT_BLANK = 0x20 and RT_TOGGLE_RESET = 0 (D8), the three
service-name reset values 8 × 0x00 (D7). All are the spec's own choices, not the document's (log 5, 6, 7, 11). -/
def defaultConfig : Config where
  readyBit := 15
  rtBlank := 0x20
  psCandReset := Vector.replicate 8 0x00
  psConfReset := Vector.replicate 8 0x00
  psPubReset := Vector.replicate 8 0x00
  rtToggleReset := false

end Sys2Proof.Machine
end

