-- ==== Sys2Proof/Machine/State.lean ====
section
/-! DEFINITION. The state of the block (`10_state.md` R20), the outputs of its last step (R30), the step label
(`40_classifier.md` R107), the transactions still to come, and the state right after reset. -/
namespace Sys2Proof.Machine

/-- RT_BUF as a list of cells: addresses strictly rising, all below 64, and no cell that holds RT_BLANK, which is what
an unlisted address reads as (log 19). -/
abbrev Memory := List Host.Cell

/-- RT_PASS, "a pass counter (0 = first full sweep not yet complete, 1 = verification sweep in progress)"
(`10_state.md` R27). -/
inductive Pass
  /-- RT_PASS = 0. -/
  | first
  /-- RT_PASS = 1. -/
  | verify
  deriving DecidableEq, Repr

/-- The class of a step (`40_classifier.md` R107). -/
inductive StepClass
  | rst
  | idle
  | ps
  | rt
  | ign
  deriving DecidableEq, Repr

/-- The named conditions, none of them fatal (`60_exceptions.md` R190). -/
inductive Condition
  /-- A ready group whose group number is neither 0 nor 2 (R191). -/
  | ignoredInput
  /-- A radio-text segment disagrees with the prior sweep (R192). -/
  | verificationMismatch
  /-- A segment index outside its range: cannot occur, no operation raises it (R193). -/
  | malformedIndex
  deriving DecidableEq, Repr

/-- The label of a step: bookkeeping of the spec that no output carries (`40_classifier.md` R107, log 4). -/
structure StepLabel where
  cls : StepClass
  cond : Option Condition
  deriving DecidableEq, Repr

/-- There is no fault: "The step never faults, never refuses and is never stuck" (`00_scope.md` R9), "no explicit
bounds failure is possible by construction" (`20_memory.md` R53). So this type has no constructor (log 20). -/
inductive Fault
  deriving DecidableEq, Repr

/-- Why a step could be refused. -/
inductive Refusal
  /-- Raised by an arm of `exec` that has no meaning; there is none. Safe. -/
  | notModelled (mnemonic : String)
  deriving DecidableEq, Repr

/-- The state. The first seven fields are the spec's (`10_state.md` R20), the rest the model's own: the outputs of the
last step (log 3), its label (log 4), the input still to come (log 1) and the parameters (log 5). -/
structure State where
  /-- PS_CAND, "candidate (most recent unconfirmed sighting)" (R22). -/
  psCand : NameBuf
  /-- PS_CONF, "confirmed (sightings that matched a prior candidate)" (R23). -/
  psConf : NameBuf
  /-- PS_PUB, the published name (R24). -/
  psPub : NameBuf
  /-- RT_BUF (R25). -/
  rtBuf : Memory
  /-- RT_BITMAP, bit i for segment i (R26). -/
  rtBitmap : BitVec 16
  /-- RT_PASS (R27). -/
  rtPass : Pass
  /-- RT_TOGGLE, the last-seen toggle flag (R28). -/
  rtToggle : Bool
  /-- `ps_event` of the last step (R30). -/
  psEvent : Option NameBuf
  /-- `rt_event` of the last step (R30). -/
  rtEvent : Option TextEvent
  /-- The last step's label. -/
  label : StepLabel
  /-- The transactions the environment has still to present, oldest first. -/
  stream : List Transaction
  /-- The implementation parameters; no step changes them. -/
  cfg : Config
  deriving DecidableEq, Repr

/-- The state right after reset (`10_state.md` R20, `70_reset_and_hazards.md` R221), with the default parameters of
`00_scope.md` R6 and nothing presented yet. -/
def State.reset : State where
  psCand := defaultConfig.psCandReset
  psConf := defaultConfig.psConfReset
  psPub := defaultConfig.psPubReset
  rtBuf := []
  rtBitmap := 0x0000
  rtPass := .first
  rtToggle := defaultConfig.rtToggleReset
  psEvent := none
  rtEvent := none
  label := ⟨.rst, none⟩
  stream := []
  cfg := defaultConfig

end Sys2Proof.Machine
end

