-- ==== Sys2Proof/Machine/Flags.lean ====
section
/-! DEFINITION. The block has no condition codes (`10_state.md` R30). What stands in their place are the two events of
a step and its label, written whole by every step. -/
namespace Sys2Proof.Machine

/-- The end of a step: its class and condition, and its two outputs. "An event is a property of one step, not a stored
flag", so every step writes both (`10_state.md` R30). -/
def State.endStep (s : State) (cls : StepClass) (cond : Option Condition) (psEvent : Option NameBuf)
    (rtEvent : Option TextEvent) : State :=
  { s with psEvent := psEvent, rtEvent := rtEvent, label := ⟨cls, cond⟩ }

/-- The end of a step without condition and without event. -/
def State.quiet (s : State) (cls : StepClass) : State :=
  s.endStep cls none none none

end Sys2Proof.Machine
end

