-- ==== Sys2Proof/Machine/Operands.lean ====
section
/-! DEFINITION. Operand forms: offsets, addresses, widths, targets and presence bits (`30_encoding.md` R78, R79;
`20_memory.md` R53), and the terminator (`00_scope.md` R6). -/
namespace Sys2Proof.Machine

/-- `off = 2 * zext(seg)`: 0, 2, 4 or 6 (`20_memory.md` R53). -/
def psOffset (seg : BitVec 2) : NameIdx := 2 * seg.setWidth 3

/-- PS_LAST_SEG, the segment whose confirmation triggers the publish test (`00_scope.md` R6). -/
def psLastSeg : BitVec 2 := 3

/-- RT_SEG_W: bytes per segment, 4 for version A and 2 for version B (`00_scope.md` R6). -/
def segWidth : Version → Nat
  | .a => 4
  | .b => 2

/-- `addr = zext(seg) * w` (`20_memory.md` R53). -/
def rtAddr (ver : Version) (seg : BitVec 4) : Addr :=
  seg.setWidth 6 * BitVec.ofNat 6 (segWidth ver)

/-- RT_TARGET, the literal values that the document asks to preserve (`42_radio_text.md` R145, R149, log 18). -/
def rtTarget : Version → BitVec 16
  | .a => 0xFFFF
  | .b => 0x00FF

/-- `1 << seg`, the presence bit of a segment index, whatever the version (`10_state.md` R26). -/
def segBit (seg : BitVec 4) : BitVec 16 := 1#16 <<< seg.toNat

/-- RT_TERM, the terminator of an emitted text (`42_radio_text.md` R147). -/
def rtTerm : Byte := 0x00

end Sys2Proof.Machine
end

