-- ==== Sys2Proof/Machine/Ops.lean ====
section
/-! DEFINITION. The named operations over the buffers (`00_scope.md` R8, `20_memory.md`), the two conditions that are
taken (`60_exceptions.md` R191, R192), reset, and the taking of the next transaction. -/
namespace Sys2Proof.Machine

/-! ### The service-name buffers -/

/-- Read of byte register `i` (`00_scope.md` R8). -/
def nameGet (x : NameBuf) (i : NameIdx) : Byte := x[i.toNat]'i.isLt

/-- Write of byte register `i` (`00_scope.md` R8). -/
def nameSet (x : NameBuf) (i : NameIdx) (v : Byte) : NameBuf := x.set i.toNat v i.isLt

/-- The pair at `off`, `off + 1` takes `(c0, c1)` (`10_state.md` R22). -/
def nameSetPair (x : NameBuf) (off : NameIdx) (c0 c1 : Byte) : NameBuf :=
  nameSet (nameSet x off c0) (off + 1) c1

/-- The matcher: the pair at `off` equals `(c0, c1)` in all 16 bits (`41_service_name.md` R121). -/
def pairMatches (x : NameBuf) (off : NameIdx) (c0 c1 : Byte) : Bool :=
  nameGet x off == c0 && nameGet x (off + 1) == c1

/-! ### The radio-text buffer as memory -/

/-- Read of one byte: an unlisted address reads as `blank` (log 19). -/
def Memory.read (blank : Byte) : Memory → Nat → Byte
  | [], _ => blank
  | (k, w) :: m, a => if k = a then w else Memory.read blank m a

/-- The memory without a cell at `a`. -/
def Memory.erase (m : Memory) (a : Nat) : Memory := m.filter fun c => c.1 != a

/-- A cell put before the first cell of a higher address. -/
def Memory.insert : Memory → Host.Cell → Memory
  | [], c => [c]
  | d :: m, c => if c.1 < d.1 then c :: d :: m else d :: Memory.insert m c

/-- Write of one byte, in canonical form: a cell that would hold `blank` is not listed (log 19). -/
def Memory.write (blank : Byte) (m : Memory) (a : Nat) (v : Byte) : Memory :=
  if v = blank then Memory.erase m a else Memory.insert (Memory.erase m a) (a, v)

/-- The canonical form of RT_BUF: addresses strictly rising and below 64, no cell that reads as an unlisted one. -/
abbrev Memory.wf (blank : Byte) (m : Memory) : Prop :=
  m.Pairwise (fun x y => x.1 < y.1) ∧ ∀ c ∈ m, c.1 < 64 ∧ c.2 ≠ blank

/-- `RT_BUF[a]`. The address has 6 bits, so every address exists (`20_memory.md` R53). -/
def State.rtByte (s : State) (a : Addr) : Byte := Memory.read s.cfg.rtBlank s.rtBuf a.toNat

/-- `RT_BUF[a] <- v`. -/
def State.setRtByte (s : State) (a : Addr) (v : Byte) : State :=
  { s with rtBuf := Memory.write s.cfg.rtBlank s.rtBuf a.toNat v }

/-- `MemRead(a, n)`: the `n` bytes from `a` on, in index order (`00_scope.md` R8). -/
def State.memRead (s : State) (a : Addr) : Nat → List Byte
  | 0 => []
  | n + 1 => s.rtByte a :: s.memRead (a + 1) n

/-- `MemWrite(a, n, v)` with `n` the length of `v`: `v[0]` to the lowest address (`00_scope.md` R8). -/
def State.memWrite (s : State) (a : Addr) : List Byte → State
  | [] => s
  | v :: vs => (s.setRtByte a v).memWrite (a + 1) vs

/-- `MemRead(0, 64)`: RT_BUF whole, in address order (`20_memory.md` R50). -/
def State.rtText (s : State) : TextBuf := Vector.ofFn fun i : Fin 64 => s.rtByte (BitVec.ofNat 6 i.val)

/-- The value of a radio-text event: `RT_BUF[0..63] ++ RT_TERM`, untrimmed (`42_radio_text.md` R147, log 14). -/
def State.rtEventValue (s : State) : TextEvent := s.rtText.push rtTerm

/-- `RtClear()`: every byte of RT_BUF takes RT_BLANK, RT_BITMAP 0x0000, RT_PASS 0; RT_TOGGLE is not part of it
(`42_radio_text.md` R141). A buffer with no cell listed is RT_BLANK everywhere. -/
def State.rtClear (s : State) : State :=
  { s with rtBuf := [], rtBitmap := 0x0000, rtPass := .first }

/-- `RT_BITMAP <- RT_BITMAP | (1 << seg)` (`42_radio_text.md` R143, R144). -/
def State.markSegment (s : State) (seg : BitVec 4) : State :=
  { s with rtBitmap := s.rtBitmap ||| segBit seg }

/-! ### Conditions -/

/-- IgnoredInput: no effect but the label (`60_exceptions.md` R191, `43_ignored_groups.md` R170). -/
def State.takeIgnoredInput (s : State) : State :=
  s.endStep .ign (some .ignoredInput) none none

/-- VerificationMismatch: "the step simply ends in the cleared radio-text state"; nothing is saved (`60_exceptions.md`
R192, R198). There is no return operation: the next radio-text group starts a new first sweep (R199). -/
def State.takeVerificationMismatch (s : State) : State :=
  s.rtClear.endStep .rt (some .verificationMismatch) none none

/-! ### Reset -/

/-- Every register takes its reset value (`70_reset_and_hazards.md` R221). -/
def State.resetRegisters (s : State) : State :=
  { s with
    psCand := s.cfg.psCandReset
    psConf := s.cfg.psConfReset
    psPub := s.cfg.psPubReset
    rtBuf := []
    rtBitmap := 0x0000
    rtPass := .first
    rtToggle := s.cfg.rtToggleReset }

/-! ### The input -/

/-- A poll that finds no group ready (`40_classifier.md` R106). -/
def idlePoll : Transaction := { rst := false, ready := false, a := 0, b := 0, c := 0, d := 0 }

/-- The transaction this step consumes and the state without it: the oldest one presented, or a poll with ready clear
when the environment has presented nothing more (log 1, log 2). -/
def State.fetch (s : State) : Transaction × State :=
  match s.stream with
  | [] => (idlePoll, s)
  | t :: rest => (t, { s with stream := rest })

/-- The environment presents `t` before everything it has presented already. -/
def State.presentNext (s : State) (t : Transaction) : State := { s with stream := t :: s.stream }

end Sys2Proof.Machine
end

