-- ==== Sys2Proof/Machine/Control.lean ====
section
/-! DEFINITION. RST and IDLE. -/
namespace Sys2Proof.Machine

/-- RST: every register to its reset value, no event, no condition (`70_reset_and_hazards.md` R221). -/
def execRst (s : State) : Host.Outcome State Fault Refusal :=
  .next (s.resetRegisters.quiet .rst)

/-- IDLE: `State' = State`, no event, no condition (`40_classifier.md` R106). -/
def execIdle (s : State) : Host.Outcome State Fault Refusal :=
  .next (s.quiet .idle)

end Sys2Proof.Machine
end

