-- ==== Sys2Proof/Machine/Ignored.lean ====
section
/-! DEFINITION. The 28 ignored group types (`43_ignored_groups.md` R170, R260 to R287): each raises IgnoredInput and
does nothing else. -/
namespace Sys2Proof.Machine

/-- IGN1A: group number 1, version A (R260). -/
def execIgn1a (s : State) : Host.Outcome State Fault Refusal := .next s.takeIgnoredInput

/-- IGN1B: group number 1, version B (R261). -/
def execIgn1b (s : State) : Host.Outcome State Fault Refusal := .next s.takeIgnoredInput

/-- IGN3A: group number 3, version A (R262). -/
def execIgn3a (s : State) : Host.Outcome State Fault Refusal := .next s.takeIgnoredInput

/-- IGN3B: group number 3, version B (R263). -/
def execIgn3b (s : State) : Host.Outcome State Fault Refusal := .next s.takeIgnoredInput

/-- IGN4A: group number 4, version A (R264). -/
def execIgn4a (s : State) : Host.Outcome State Fault Refusal := .next s.takeIgnoredInput

/-- IGN4B: group number 4, version B (R265). -/
def execIgn4b (s : State) : Host.Outcome State Fault Refusal := .next s.takeIgnoredInput

/-- IGN5A: group number 5, version A (R266). -/
def execIgn5a (s : State) : Host.Outcome State Fault Refusal := .next s.takeIgnoredInput

/-- IGN5B: group number 5, version B (R267). -/
def execIgn5b (s : State) : Host.Outcome State Fault Refusal := .next s.takeIgnoredInput

/-- IGN6A: group number 6, version A (R268). -/
def execIgn6a (s : State) : Host.Outcome State Fault Refusal := .next s.takeIgnoredInput

/-- IGN6B: group number 6, version B (R269). -/
def execIgn6b (s : State) : Host.Outcome State Fault Refusal := .next s.takeIgnoredInput

/-- IGN7A: group number 7, version A (R270). -/
def execIgn7a (s : State) : Host.Outcome State Fault Refusal := .next s.takeIgnoredInput

/-- IGN7B: group number 7, version B (R271). -/
def execIgn7b (s : State) : Host.Outcome State Fault Refusal := .next s.takeIgnoredInput

/-- IGN8A: group number 8, version A (R272). -/
def execIgn8a (s : State) : Host.Outcome State Fault Refusal := .next s.takeIgnoredInput

/-- IGN8B: group number 8, version B (R273). -/
def execIgn8b (s : State) : Host.Outcome State Fault Refusal := .next s.takeIgnoredInput

/-- IGN9A: group number 9, version A (R274). -/
def execIgn9a (s : State) : Host.Outcome State Fault Refusal := .next s.takeIgnoredInput

/-- IGN9B: group number 9, version B (R275). -/
def execIgn9b (s : State) : Host.Outcome State Fault Refusal := .next s.takeIgnoredInput

/-- IGN10A: group number 10, version A (R276). -/
def execIgn10a (s : State) : Host.Outcome State Fault Refusal := .next s.takeIgnoredInput

/-- IGN10B: group number 10, version B (R277). -/
def execIgn10b (s : State) : Host.Outcome State Fault Refusal := .next s.takeIgnoredInput

/-- IGN11A: group number 11, version A (R278). -/
def execIgn11a (s : State) : Host.Outcome State Fault Refusal := .next s.takeIgnoredInput

/-- IGN11B: group number 11, version B (R279). -/
def execIgn11b (s : State) : Host.Outcome State Fault Refusal := .next s.takeIgnoredInput

/-- IGN12A: group number 12, version A (R280). -/
def execIgn12a (s : State) : Host.Outcome State Fault Refusal := .next s.takeIgnoredInput

/-- IGN12B: group number 12, version B (R281). -/
def execIgn12b (s : State) : Host.Outcome State Fault Refusal := .next s.takeIgnoredInput

/-- IGN13A: group number 13, version A (R282). -/
def execIgn13a (s : State) : Host.Outcome State Fault Refusal := .next s.takeIgnoredInput

/-- IGN13B: group number 13, version B (R283). -/
def execIgn13b (s : State) : Host.Outcome State Fault Refusal := .next s.takeIgnoredInput

/-- IGN14A: group number 14, version A (R284). -/
def execIgn14a (s : State) : Host.Outcome State Fault Refusal := .next s.takeIgnoredInput

/-- IGN14B: group number 14, version B (R285). -/
def execIgn14b (s : State) : Host.Outcome State Fault Refusal := .next s.takeIgnoredInput

/-- IGN15A: group number 15, version A (R286). -/
def execIgn15a (s : State) : Host.Outcome State Fault Refusal := .next s.takeIgnoredInput

/-- IGN15B: group number 15, version B (R287). -/
def execIgn15b (s : State) : Host.Outcome State Fault Refusal := .next s.takeIgnoredInput

end Sys2Proof.Machine
end

