-- ==== Sys2Proof/Machine/RadioText.lean ====
section
/-! DEFINITION. The radio-text assembler (`42_radio_text.md`): toggle change, first-sweep write, verification compare,
completion test, and the operations RT2A and RT2B. -/
namespace Sys2Proof.Machine

/-- Step 1: a toggle different from RT_TOGGLE clears the radio-text state and is recorded (R142). -/
def State.toggleChange (s : State) (tog : Bool) : State :=
  if tog != s.rtToggle then { s.rtClear with rtToggle := tog } else s

/-- Step 5: the completion test against the target of the current group's version, by equality (R145, D9, log 12). The
end of a first sweep begins the verification sweep (R146); the end of a verification sweep emits the text (R147). -/
def State.completeSweep (s : State) (ver : Version) : State :=
  if s.rtBitmap == rtTarget ver then
    match s.rtPass with
    | .first => { s with rtBitmap := 0x0000, rtPass := .verify }.quiet .rt
    | .verify => { s with rtBitmap := 0x0000, rtPass := .first }.endStep .rt none none (some s.rtEventValue)
  else s.quiet .rt

/-- `RadioTextObserve(ver, seg, tog, chars)` (R140): step 1, then by RT_PASS step 3 (R143) or step 4 (R144; a match
sets the presence bit, D10, log 13), then step 5, which a mismatch skips. -/
def radioTextObserve (ver : Version) (seg : BitVec 4) (tog : Bool) (chars : List Byte) (s : State) : State :=
  let s1 := s.toggleChange tog
  match s1.rtPass with
  | .first => ((s1.memWrite (rtAddr ver seg) chars).markSegment seg).completeSweep ver
  | .verify =>
    if s1.memRead (rtAddr ver seg) (segWidth ver) == chars then (s1.markSegment seg).completeSweep ver
    else s1.takeVerificationMismatch

/-- RT2A: four characters, from blocks C and D (R150). -/
def execRt2a (tog : Bool) (seg : BitVec 4) (c0 c1 c2 c3 : Byte) (s : State) : Host.Outcome State Fault Refusal :=
  .next (radioTextObserve .a seg tog [c0, c1, c2, c3] s)

/-- RT2B: two characters, from block D only (R151). -/
def execRt2b (tog : Bool) (seg : BitVec 4) (c0 c1 : Byte) (s : State) : Host.Outcome State Fault Refusal :=
  .next (radioTextObserve .b seg tog [c0, c1] s)

end Sys2Proof.Machine
end

