-- ==== Sys2Proof/Machine/ServiceName.lean ====
section
/-! DEFINITION. The service-name assembler (`41_service_name.md`): the matcher, the two branches, the publish test, and
the operations PS0A and PS0B. -/
namespace Sys2Proof.Machine

/-- The publish test, made after the copy into PS_CONF: segment 3, PS_CONF equals PS_CAND over all 8 bytes, and differs
from PS_PUB (R123; conflict C1, log 23). -/
def State.publishTest (s : State) (seg : BitVec 2) : Bool :=
  seg == psLastSeg && s.psConf == s.psCand && s.psConf != s.psPub

/-- The publish: PS_PUB takes PS_CONF, and the event carries those 8 bytes (R123). -/
def State.publish (s : State) : State :=
  { s with psPub := s.psConf }.endStep .ps none (some s.psConf) none

/-- The match branch: the pair is copied into PS_CONF, then the publish test (R121, R123). -/
def State.confirmPair (s : State) (seg : BitVec 2) (c0 c1 : Byte) : State :=
  let s' := { s with psConf := nameSetPair s.psConf (psOffset seg) c0 c1 }
  if s'.publishTest seg then s'.publish else s'.quiet .ps

/-- The mismatch branch: the pair becomes the candidate; no publish test (R122). -/
def State.replaceCandidate (s : State) (seg : BitVec 2) (c0 c1 : Byte) : State :=
  { s with psCand := nameSetPair s.psCand (psOffset seg) c0 c1 }.quiet .ps

/-- `ServiceNameObserve(seg, (c0, c1))` (R120). -/
def serviceNameObserve (seg : BitVec 2) (c0 c1 : Byte) (s : State) : State :=
  if pairMatches s.psCand (psOffset seg) c0 c1 then s.confirmPair seg c0 c1
  else s.replaceCandidate seg c0 c1

/-- PS0A (R124). -/
def execPs0a (seg : BitVec 2) (c0 c1 : Byte) (s : State) : Host.Outcome State Fault Refusal :=
  .next (serviceNameObserve seg c0 c1 s)

/-- PS0B: "those of PS0A word for word; the only difference is the encoding" (R125). -/
def execPs0b (seg : BitVec 2) (c0 c1 : Byte) (s : State) : Host.Outcome State Fault Refusal :=
  .next (serviceNameObserve seg c0 c1 s)

end Sys2Proof.Machine
end

