-- ==== Sys2Proof/Machine/Dispatch.lean ====
section
/-! DEFINITION. One arm per operation of the table (`30_encoding.md` R81). -/
namespace Sys2Proof.Machine

def exec (i : Instr) (s : State) : Host.Outcome State Fault Refusal :=
  match i with
  | .rst => Sys2Proof.Machine.execRst s
  | .idle => Sys2Proof.Machine.execIdle s
  | .ps0a seg c0 c1 => Sys2Proof.Machine.execPs0a seg c0 c1 s
  | .ps0b seg c0 c1 => Sys2Proof.Machine.execPs0b seg c0 c1 s
  | .rt2a tog seg c0 c1 c2 c3 => Sys2Proof.Machine.execRt2a tog seg c0 c1 c2 c3 s
  | .rt2b tog seg c0 c1 => Sys2Proof.Machine.execRt2b tog seg c0 c1 s
  | .ign1a => Sys2Proof.Machine.execIgn1a s
  | .ign1b => Sys2Proof.Machine.execIgn1b s
  | .ign3a => Sys2Proof.Machine.execIgn3a s
  | .ign3b => Sys2Proof.Machine.execIgn3b s
  | .ign4a => Sys2Proof.Machine.execIgn4a s
  | .ign4b => Sys2Proof.Machine.execIgn4b s
  | .ign5a => Sys2Proof.Machine.execIgn5a s
  | .ign5b => Sys2Proof.Machine.execIgn5b s
  | .ign6a => Sys2Proof.Machine.execIgn6a s
  | .ign6b => Sys2Proof.Machine.execIgn6b s
  | .ign7a => Sys2Proof.Machine.execIgn7a s
  | .ign7b => Sys2Proof.Machine.execIgn7b s
  | .ign8a => Sys2Proof.Machine.execIgn8a s
  | .ign8b => Sys2Proof.Machine.execIgn8b s
  | .ign9a => Sys2Proof.Machine.execIgn9a s
  | .ign9b => Sys2Proof.Machine.execIgn9b s
  | .ign10a => Sys2Proof.Machine.execIgn10a s
  | .ign10b => Sys2Proof.Machine.execIgn10b s
  | .ign11a => Sys2Proof.Machine.execIgn11a s
  | .ign11b => Sys2Proof.Machine.execIgn11b s
  | .ign12a => Sys2Proof.Machine.execIgn12a s
  | .ign12b => Sys2Proof.Machine.execIgn12b s
  | .ign13a => Sys2Proof.Machine.execIgn13a s
  | .ign13b => Sys2Proof.Machine.execIgn13b s
  | .ign14a => Sys2Proof.Machine.execIgn14a s
  | .ign14b => Sys2Proof.Machine.execIgn14b s
  | .ign15a => Sys2Proof.Machine.execIgn15a s
  | .ign15b => Sys2Proof.Machine.execIgn15b s

end Sys2Proof.Machine
end

