-- ==== Sys2Proof/Machine/Step.lean ====
section
/-! DEFINITION. One step: one transaction is taken, decoded and executed (`00_scope.md` R9). -/
namespace Sys2Proof.Machine

/-- "One step consumes one transaction" (`00_scope.md` R9). -/
def step (s : State) : Host.Outcome State Fault Refusal :=
  exec (decode s.fetch.1) s.fetch.2

/-- The transaction with operation word `w` is presented next, so the very next step runs it; the block fetches
nothing, its transactions are presented from outside (log 1). -/
def State.withFetchWord (s : State) (nbits w : Nat) : State :=
  s.presentNext (Transaction.ofOpWord (BitVec.ofNat 18 (w % 2 ^ nbits)))

end Sys2Proof.Machine
end

