-- ==== Sys2Proof/Machine/RegisterSource.lean ====
section
/-! DEFINITION. The Register Source's file as the block sees it (`20_memory.md` R56, `60_exceptions.md` R205): how one
snapshot becomes one transaction, and how a poll presents it. -/
namespace Sys2Proof.Machine

/-- `ready = slot[10][READY_BIT]; A = slot[12]; B = slot[13]; C = slot[14]; D = slot[15]` (`20_memory.md` R56, D6,
log 11). No other slot and no other bit of slot 10 is read. -/
def snapshotTransaction (cfg : Config) (rst : Bool) (slots : RegisterFile) : Transaction where
  rst := rst
  ready := slots[10].getLsbD cfg.readyBit.val
  a := slots[12]
  b := slots[13]
  c := slots[14]
  d := slots[15]

/-- The caller polls: the transaction of one snapshot is presented after everything presented before (`20_memory.md`
R63). -/
def State.poll (s : State) (rst : Bool) (slots : RegisterFile) : State :=
  { s with stream := s.stream ++ [snapshotTransaction s.cfg rst slots] }

end Sys2Proof.Machine
end

