-- ==== Sys2Proof/Safety.lean ====
section
/-! DEFINITION. What counts as a safe run, in the terms that claims use: the class of an operation, the cleared
radio-text state, the invariant of `10_state.md` R34, the events of a run, and the groups that carry a given text or
name. -/
namespace Sys2Proof.Machine

/-- The class of the step that runs an operation (`40_classifier.md` R107). -/
def classOf : Instr → StepClass
  | .rst => .rst
  | .idle => .idle
  | .ps0a _ _ _ | .ps0b _ _ _ => .ps
  | .rt2a _ _ _ _ _ _ | .rt2b _ _ _ _ => .rt
  | .ign1a | .ign1b | .ign3a | .ign3b | .ign4a | .ign4b | .ign5a | .ign5b | .ign6a | .ign6b
  | .ign7a | .ign7b | .ign8a | .ign8b | .ign9a | .ign9b | .ign10a | .ign10b | .ign11a | .ign11b
  | .ign12a | .ign12b | .ign13a | .ign13b | .ign14a | .ign14b | .ign15a | .ign15b => .ign

/-- The cleared radio-text state: every byte RT_BLANK, RT_BITMAP and RT_PASS zero (`42_radio_text.md` R141). -/
def State.RtCleared (s : State) : Prop :=
  (∀ a : Addr, s.rtByte a = s.cfg.rtBlank) ∧ s.rtBitmap = 0x0000 ∧ s.rtPass = .first

/-- The seven registers of `10_state.md` R20 are the same in both states (RT_BUF byte by byte). -/
def State.SameRegisters (s u : State) : Prop :=
  u.psCand = s.psCand ∧ u.psConf = s.psConf ∧ u.psPub = s.psPub ∧ (∀ a : Addr, u.rtByte a = s.rtByte a) ∧
  u.rtBitmap = s.rtBitmap ∧ u.rtPass = s.rtPass ∧ u.rtToggle = s.rtToggle

/-- The service-name registers are the same in both states. -/
def State.SameName (s u : State) : Prop :=
  u.psCand = s.psCand ∧ u.psConf = s.psConf ∧ u.psPub = s.psPub

/-- The radio-text registers are the same in both states (RT_BUF byte by byte). -/
def State.SameText (s u : State) : Prop :=
  (∀ a : Addr, u.rtByte a = s.rtByte a) ∧ u.rtBitmap = s.rtBitmap ∧ u.rtPass = s.rtPass ∧ u.rtToggle = s.rtToggle

/-- The input still to come and the parameters are the same in both states. -/
def State.SameInput (s u : State) : Prop :=
  u.stream = s.stream ∧ u.cfg = s.cfg

/-- What holds after reset and after every step (`10_state.md` R34 (c), (d), (f); `60_exceptions.md` R193, R197), and
the canonical form of RT_BUF. -/
structure Inv (s : State) : Prop where
  /-- RT_BUF is in canonical form. -/
  memory : Memory.wf s.cfg.rtBlank s.rtBuf
  /-- At most one event (R197). -/
  oneEvent : s.psEvent = none ∨ s.rtEvent = none
  /-- "An event and a condition never coincide" (R197). -/
  eventOrCondition : s.label.cond ≠ none → s.psEvent = none ∧ s.rtEvent = none
  /-- MalformedIndex is never raised (R193). -/
  noMalformedIndex : s.label.cond ≠ some .malformedIndex
  /-- IgnoredInput is raised by the IGN steps and by no other (R191). -/
  ignored : s.label.cond = some .ignoredInput ↔ s.label.cls = .ign
  /-- After a publish `PS_PUB == PS_CONF == PS_CAND`, and the event carries that name (R34 (c), R30). -/
  published : ∀ name, s.psEvent = some name →
    s.label.cls = .ps ∧ s.psPub = name ∧ s.psConf = name ∧ s.psCand = name
  /-- After an emit RT_BITMAP = 0, RT_PASS = 0 and RT_BUF still holds the emitted bytes (R34 (f), R30). -/
  emitted : ∀ text, s.rtEvent = some text →
    s.label.cls = .rt ∧ text = s.rtText.push 0x00 ∧ s.rtBitmap = 0x0000 ∧ s.rtPass = .first
  /-- After a VerificationMismatch the radio-text state is cleared (R34 (d)). -/
  mismatch : s.label.cond = some .verificationMismatch → s.label.cls = .rt ∧ s.RtCleared
  /-- After RST every register holds its reset value (R34 (d), R221). -/
  afterReset : s.label.cls = .rst →
    s.psCand = s.cfg.psCandReset ∧ s.psConf = s.cfg.psConfReset ∧ s.psPub = s.cfg.psPubReset ∧ s.RtCleared ∧
    s.rtToggle = s.cfg.rtToggleReset

/-- The radio texts emitted in the first `n` steps from `s`, in order. -/
def rtTrace : Nat → State → List TextEvent
  | 0, _ => []
  | n + 1, s =>
    match step s with
    | .next u => u.rtEvent.toList ++ rtTrace n u
    | .fault _ => []
    | .refused _ => []

/-- The names published in the first `n` steps from `s`, in order. -/
def psTrace : Nat → State → List NameBuf
  | 0, _ => []
  | n + 1, s =>
    match step s with
    | .next u => u.psEvent.toList ++ psTrace n u
    | .fault _ => []
    | .refused _ => []

/-- The version-A group that carries segment `seg` of `text`: its four characters in address order (`42_radio_text.md`
R150). -/
def textGroupA (tog : Bool) (text : TextBuf) (seg : BitVec 4) : Instr :=
  .rt2a tog seg (text[4 * seg.toNat]'(by omega)) (text[4 * seg.toNat + 1]'(by omega))
    (text[4 * seg.toNat + 2]'(by omega)) (text[4 * seg.toNat + 3]'(by omega))

/-- An operation carries segment `seg` of `name` if it is a service-name group, of either version, with that pair
(`41_service_name.md` R124, R125). -/
def CarriesPair (name : NameBuf) (seg : BitVec 2) (i : Instr) : Prop :=
  i = .ps0a seg (nameGet name (psOffset seg)) (nameGet name (psOffset seg + 1)) ∨
  i = .ps0b seg (nameGet name (psOffset seg)) (nameGet name (psOffset seg + 1))

end Sys2Proof.Machine
end

