-- ==== Sys2Proof/Certificates/Slice0/Obligations.lean ====
section
/-! DEFINITION. The statements for the provers. A `stated` one formalises the numbered rules its docstring names; a
derived one says which of the spec's own decisions (D<n> of `92_eei_decisions.md`) or of the model's choices (log <n>)
it rests on. -/

open Sys2Proof Sys2Proof.Machine

/-! ### Encoding and classification -/

/-- Derived; rests on D3 to D5 and D18 (log 8, 9, 10, 17). The canonical transaction of every operation, with every
operand at every value, decodes to that operation, read as blocks and read as 66 bits (`30_encoding.md` R70, R80,
R84). -/
def Obligations.DecodeOfEncodeIsIdentity : Prop :=
  ∀ i : Instr, decode (encode i) = i ∧ decodeBits (encodeBits i) = i

/-- Derived; rests on D18 (log 17). The other direction: a canonical transaction is the encoding of the operation it
decodes to, and every encoding is canonical (`30_encoding.md` R84). -/
def Obligations.EncodeOfDecodeIsCanonical : Prop :=
  (∀ t : Transaction, t.canonical = true → encode (decode t) = t) ∧
  (∀ i : Instr, (encode i).canonical = true)

/-- Derived; the table is the spec's own (`30_encoding.md` R81), its order of priority D14 and D17 (log 15, 16).
Every transaction fits the row of the operation it decodes to, and no other row: the rows partition all operation
words. -/
def Obligations.OperationMapIsPartition : Prop :=
  ∀ t : Transaction, (decode t).row.fits t = true ∧ ∀ i : Instr, i.row.fits t = true → i.row = (decode t).row

/-- Derived; rests on D13 (log 17). Bits that no rule reads never change the operation or its operands (`30_encoding.md`
R71, R82): everything under RST; all 64 group bits under IDLE; for a service-name group everything but B[15:11], B[1:0]
and D; for radio text everything but B[15:11], B[4:0], D and, in version A, C; for an ignored group everything but
B[15:11]. -/
def Obligations.UnreadBitsNeverMatter : Prop :=
  ∀ t u : Transaction,
    (t.rst = true → u.rst = true → decode t = decode u) ∧
    (t.rst = false → u.rst = false → t.ready = false → u.ready = false → decode t = decode u) ∧
    (t.rst = false → u.rst = false → t.ready = true → u.ready = true →
      t.b.extractLsb' 11 5 = u.b.extractLsb' 11 5 →
      (t.b.extractLsb' 12 4 = 0 → t.b.extractLsb' 0 2 = u.b.extractLsb' 0 2 → t.d = u.d → decode t = decode u) ∧
      (t.b.extractLsb' 12 4 = 2 → t.b.getLsbD 11 = false → t.b.extractLsb' 0 5 = u.b.extractLsb' 0 5 → t.c = u.c →
        t.d = u.d → decode t = decode u) ∧
      (t.b.extractLsb' 12 4 = 2 → t.b.getLsbD 11 = true → t.b.extractLsb' 0 5 = u.b.extractLsb' 0 5 → t.d = u.d →
        decode t = decode u) ∧
      (t.b.extractLsb' 12 4 ≠ 0 → t.b.extractLsb' 12 4 ≠ 2 → decode t = decode u))

/-- Derived; a sanity statement on words written out bit by bit from `30_encoding.md` R73 to R76, R81, one per family. -/
def Obligations.WrittenOutWordsDecode : Prop :=
  decode ⟨true, true, 0x1234, 0b0000_0000_0000_0011, 0, 0x4748⟩ = .rst ∧
  decode ⟨false, false, 0x1234, 0b0010_0000_0001_0000, 0x4142, 0x4344⟩ = .idle ∧
  decode ⟨false, true, 0, 0b0000_0_000000000_11, 0, 0x4748⟩ = .ps0a 3 0x47 0x48 ∧
  decode ⟨false, true, 0, 0b0000_1_000000000_01, 0, 0x4344⟩ = .ps0b 1 0x43 0x44 ∧
  decode ⟨false, true, 0, 0b0010_0_000000_1_1111, 0x4142, 0x4344⟩ = .rt2a true 15 0x41 0x42 0x43 0x44 ∧
  decode ⟨false, true, 0, 0b0010_1_000000_0_0011, 0, 0x6C6F⟩ = .rt2b false 3 0x6C 0x6F ∧
  decode ⟨false, true, 0x1234, 0b0101_1_11111101100, 0x4142, 0x4344⟩ = .ign5b

/-- Derived; the place of the version bit rests on D3 (log 8), the number B[15:11] on D21 (log 24). The group type is
(B[15:12], B[11]), as a number B[15:11], and depends on nothing else (`40_classifier.md` R100). -/
def Obligations.GroupTypeIsTopFiveBits : Prop :=
  (∀ b : Word, groupType b = ⟨b.extractLsb' 12 4, if b.getLsbD 11 then .b else .a⟩ ∧
    (groupType b).number = b.extractLsb' 11 5) ∧
  (∀ b b' : Word, b.extractLsb' 11 5 = b'.extractLsb' 11 5 → groupType b = groupType b')

/-- Derived; the place of the version bit (bit 11, 0x0800) rests on D3 (log 8), and the version-B target is the literal
kept by log 18. The two capability checks (`40_classifier.md` R101, R102), and what the assemblers make of their answers,
with the widths and targets of `30_encoding.md` R79 and `42_radio_text.md` R145. The service-name assembler does not use the version: the other version does the same. The radio-text assembler takes
from it the segment width, the target and the source blocks: all of C and D in version A, all of D alone in version
B. -/
def Obligations.CapabilityChecksRouteGroups : Prop :=
  (segWidth .a = 4 ∧ segWidth .b = 2 ∧ rtTarget .a = 0xFFFF ∧ rtTarget .b = 0x00FF) ∧
  ∀ t : Transaction, t.rst = false → t.ready = true →
    (isServiceNameGroup (groupType t.b) = true ↔ t.b.extractLsb' 12 4 = 0) ∧
    (isServiceNameGroup (groupType t.b) = true → classOf (decode t) = .ps ∧
      ∀ s : State, exec (decode { t with b := t.b ^^^ 0x0800 }) s = exec (decode t) s) ∧
    (∀ v, isRadioTextGroup (groupType t.b) = some v ↔
      t.b.extractLsb' 12 4 = 2 ∧ v = if t.b.getLsbD 11 then .b else .a) ∧
    (∀ v, isRadioTextGroup (groupType t.b) = some v → ∃ seg tog chars, chars.length = segWidth v ∧
      ∀ s : State, exec (decode t) s = .next (radioTextObserve v seg tog chars s)) ∧
    (isRadioTextGroup (groupType t.b) = some .a →
      ∀ c d : Word, decode { t with c := c, d := d } = decode t ↔ c = t.c ∧ d = t.d) ∧
    (isRadioTextGroup (groupType t.b) = some .b →
      ∀ c d : Word, decode { t with c := c, d := d } = decode t ↔ d = t.d)

/-- Derived; the fields' places rest on D3 to D5 (log 8, 9, 10). The filter and multiplexer (`40_classifier.md` R103): a
ready group runs exactly one of the three arms, on the fields B[1:0] and D, or B[11], B[4], B[3:0], C and D, or nothing;
it is taken at face value. -/
def Obligations.MultiplexerRunsOneArm : Prop :=
  ∀ (s : State) (t : Transaction), t.rst = false → t.ready = true →
    step (s.presentNext t) = .next (
      if t.b.extractLsb' 12 4 = 0 then
        serviceNameObserve (t.b.extractLsb' 0 2) (t.d.extractLsb' 8 8) (t.d.extractLsb' 0 8) s
      else if t.b.extractLsb' 12 4 = 2 then
        if t.b.getLsbD 11 then
          radioTextObserve .b (t.b.extractLsb' 0 4) (t.b.getLsbD 4) [t.d.extractLsb' 8 8, t.d.extractLsb' 0 8] s
        else
          radioTextObserve .a (t.b.extractLsb' 0 4) (t.b.getLsbD 4)
            [t.c.extractLsb' 8 8, t.c.extractLsb' 0 8, t.d.extractLsb' 8 8, t.d.extractLsb' 0 8] s
      else s.takeIgnoredInput)

/-- Derived; rests on D16 (log 20). Offsets and addresses (`20_memory.md` R53, R54; `60_exceptions.md` R193): 2*seg and
seg*w, without wrap, aligned, in range; version-B addresses cover bytes 0 to 31. -/
def Obligations.AddressesAreInRangeAndAligned : Prop :=
  (∀ seg : BitVec 2, (psOffset seg).toNat = 2 * seg.toNat ∧ (psOffset seg).toNat + 1 ≤ 7) ∧
  (∀ seg : BitVec 4, (rtAddr .a seg).toNat = 4 * seg.toNat ∧ (rtAddr .a seg).toNat + 3 ≤ 63) ∧
  (∀ seg : BitVec 4, (rtAddr .b seg).toNat = 2 * seg.toNat ∧ (rtAddr .b seg).toNat + 1 ≤ 31)

/-- Derived; rests on D6 (log 11) and on log 1 for the queue. A poll presents `ready = slot[10][READY_BIT]`, A to D from
slots 12 to 15 (`20_memory.md` R56): with nothing presented before, the next step runs that transaction; two snapshots
that agree there present the same transaction. -/
def Obligations.PollPresentsSnapshot : Prop :=
  (∀ (s : State) (rst : Bool) (x : RegisterFile), s.stream = [] →
    step (s.poll rst x) = exec (decode ⟨rst, x[10].getLsbD s.cfg.readyBit.val, x[12], x[13], x[14], x[15]⟩) s) ∧
  (∀ (s : State) (rst : Bool) (x y : RegisterFile),
    x[10].getLsbD s.cfg.readyBit.val = y[10].getLsbD s.cfg.readyBit.val →
    x[12] = y[12] → x[13] = y[13] → x[14] = y[14] → x[15] = y[15] → s.poll rst x = s.poll rst y)

/-! ### The step, reset, IDLE and the ignored groups -/

/-- Derived; the queue and its end are the model's choice (log 1, log 2). A step takes the oldest transaction and is
`exec` of its operation on the state without it; with nothing presented it is IDLE (`00_scope.md` R9). -/
def Obligations.StepRunsDecodedTransaction : Prop :=
  (∀ (s : State) (t : Transaction) (rest : List Transaction), s.stream = t :: rest →
    step s = exec (decode t) { s with stream := rest }) ∧
  (∀ s : State, s.stream = [] → step s = exec .idle s)

/-- Derived; rests on D1 and D15 (log 20, log 4). "The step never faults, never refuses and is never stuck"
(`00_scope.md` R9): every step answers a next state, takes one transaction, keeps the parameters, and never raises
MalformedIndex (`60_exceptions.md` R193). -/
def Obligations.EveryStepAnswersNext : Prop :=
  ∀ s : State, ∃ u, step s = .next u ∧ u.stream = s.stream.tail ∧ u.cfg = s.cfg ∧
    u.label.cond ≠ some .malformedIndex

/-- Derived; rests on D17 (log 15), and on D7 and D8 for what the parameters are (log 5, 6, 7). RST completes from every
state with every register at its reset value, no event and no condition (`70_reset_and_hazards.md` R221); it wins over
`ready` and over the group; two RST equal one. -/
def Obligations.RstRestoresEveryRegister : Prop :=
  ∀ s : State,
    (∃ u, exec .rst s = .next u ∧ u.psCand = s.cfg.psCandReset ∧ u.psConf = s.cfg.psConfReset ∧
      u.psPub = s.cfg.psPubReset ∧ u.RtCleared ∧ u.rtToggle = s.cfg.rtToggleReset ∧ u.psEvent = none ∧
      u.rtEvent = none ∧ u.label = ⟨.rst, none⟩ ∧ s.SameInput u ∧ exec .rst u = .next u) ∧
    (∀ t : Transaction, t.rst = true → step (s.presentNext t) = exec .rst s)

/-- Derived; rests on D14 (log 16). IDLE completes and changes nothing, and a poll with `ready` clear is IDLE whatever
its blocks hold (`40_classifier.md` R106). -/
def Obligations.IdleChangesNothing : Prop :=
  ∀ s : State,
    (∃ u, exec .idle s = .next u ∧ s.SameRegisters u ∧ s.SameInput u ∧ u.psEvent = none ∧ u.rtEvent = none ∧
      u.label = ⟨.idle, none⟩) ∧
    (∀ t : Transaction, t.rst = false → t.ready = false → step (s.presentNext t) = exec .idle s)

/-- Stated, `43_ignored_groups.md` R170: a ready group whose number is neither 0 nor 2 changes nothing, has no event,
and its condition is IgnoredInput; none of its other bits matters. -/
def Obligations.IgnoredGroupChangesNothing : Prop :=
  ∀ (s : State) (t : Transaction), t.rst = false → t.ready = true → t.b.extractLsb' 12 4 ≠ 0 →
    t.b.extractLsb' 12 4 ≠ 2 →
    ∃ u, step (s.presentNext t) = .next u ∧ s.SameRegisters u ∧ s.SameInput u ∧ u.psEvent = none ∧
      u.rtEvent = none ∧ u.label = ⟨.ign, some .ignoredInput⟩

/-- Derived (`43_ignored_groups.md` R260 to R287, `40_classifier.md` R105). Each of the 28 ignored operations, named
with its group number and version: it is what a ready group of that type decodes to, whatever its other bits, its
canonical block B is gn ++ ver ++ 0, and it completes from every state, changing nothing. -/
def Obligations.EachIgnoredOperationCompletes : Prop :=
  ∀ r ∈ ([(.ign1a, 1, false), (.ign1b, 1, true), (.ign3a, 3, false), (.ign3b, 3, true), (.ign4a, 4, false),
      (.ign4b, 4, true), (.ign5a, 5, false), (.ign5b, 5, true), (.ign6a, 6, false), (.ign6b, 6, true),
      (.ign7a, 7, false), (.ign7b, 7, true), (.ign8a, 8, false), (.ign8b, 8, true), (.ign9a, 9, false),
      (.ign9b, 9, true), (.ign10a, 10, false), (.ign10b, 10, true), (.ign11a, 11, false), (.ign11b, 11, true),
      (.ign12a, 12, false), (.ign12b, 12, true), (.ign13a, 13, false), (.ign13b, 13, true), (.ign14a, 14, false),
      (.ign14b, 14, true), (.ign15a, 15, false), (.ign15b, 15, true)] : List (Instr × BitVec 4 × Bool)),
    (∀ t : Transaction, t.rst = false → t.ready = true → t.b.extractLsb' 12 4 = r.2.1 → t.b.getLsbD 11 = r.2.2 →
      decode t = r.1) ∧
    (encode r.1).b = r.2.1 ++ BitVec.ofBool r.2.2 ++ 0#11 ∧
    (∀ s : State, ∃ u, exec r.1 s = .next u ∧ s.SameRegisters u ∧ s.SameInput u ∧ u.psEvent = none ∧
      u.rtEvent = none ∧ u.label = ⟨.ign, some .ignoredInput⟩)

/-- Derived; the values are the spec's defaults (D7, D8; log 6, 7), the outputs R221's. The state after reset
(`10_state.md` R20). -/
def Obligations.ResetHoldsDefaultValues : Prop :=
  (∀ i, nameGet State.reset.psCand i = 0x00) ∧ (∀ i, nameGet State.reset.psConf i = 0x00) ∧
  (∀ i, nameGet State.reset.psPub i = 0x00) ∧ (∀ a, State.reset.rtByte a = 0x20) ∧
  State.reset.rtBitmap = 0x0000 ∧ State.reset.rtPass = .first ∧ State.reset.rtToggle = false ∧
  State.reset.psEvent = none ∧ State.reset.rtEvent = none

/-! ### The service name -/

/-- Stated, `41_service_name.md` R121: PS0A and PS0B compare the incoming pair with PS_CAND at 2*seg in all 16 bits; if
equal the pair is copied into PS_CONF at the same offset, whatever stood there, PS_CAND is not written, and the other
three pairs of PS_CONF are not written; a difference in either character is no match and PS_CONF is not written. -/
def Obligations.MatchCopiesPairIntoConfirmed : Prop :=
  ∀ (s : State) (seg : BitVec 2) (c0 c1 : Byte),
    ∃ u, exec (.ps0a seg c0 c1) s = .next u ∧ exec (.ps0b seg c0 c1) s = .next u ∧
      (∀ i, nameGet u.psConf i =
        if nameGet s.psCand (psOffset seg) = c0 ∧ nameGet s.psCand (psOffset seg + 1) = c1 then
          if i = psOffset seg then c0 else if i = psOffset seg + 1 then c1 else nameGet s.psConf i
        else nameGet s.psConf i) ∧
      (nameGet s.psCand (psOffset seg) = c0 → nameGet s.psCand (psOffset seg + 1) = c1 → u.psCand = s.psCand) ∧
      s.SameText u ∧ s.SameInput u ∧ u.rtEvent = none ∧ u.label = ⟨.ps, none⟩

/-- Stated, `41_service_name.md` R122: on a mismatch the pair overwrites PS_CAND at 2*seg; PS_CONF and PS_PUB are not
written and no name is published, even when seg = 3. -/
def Obligations.MismatchReplacesCandidatePair : Prop :=
  ∀ (s : State) (seg : BitVec 2) (c0 c1 : Byte),
    ¬ (nameGet s.psCand (psOffset seg) = c0 ∧ nameGet s.psCand (psOffset seg + 1) = c1) →
    ∃ u, exec (.ps0a seg c0 c1) s = .next u ∧ exec (.ps0b seg c0 c1) s = .next u ∧
      (∀ i, nameGet u.psCand i =
        if i = psOffset seg then c0 else if i = psOffset seg + 1 then c1 else nameGet s.psCand i) ∧
      u.psConf = s.psConf ∧ u.psPub = s.psPub ∧ u.psEvent = none ∧
      s.SameText u ∧ s.SameInput u ∧ u.rtEvent = none ∧ u.label = ⟨.ps, none⟩

/-- Derived; the form of the event is D12 (log 14), the test's first condition conflict C1's resolution (log 23).
The publish test, on a match (`41_service_name.md` R123): with seg = 3, PS_CONF (after the copy) equal to PS_CAND over
all 8 bytes and different from PS_PUB, all 8 bytes of PS_CONF go to PS_PUB and are the event; otherwise PS_PUB stays and
there is no event. -/
def Obligations.PublishTestDecidesEvent : Prop :=
  ∀ (s : State) (seg : BitVec 2) (c0 c1 : Byte),
    nameGet s.psCand (psOffset seg) = c0 → nameGet s.psCand (psOffset seg + 1) = c1 →
    ∃ u, exec (.ps0a seg c0 c1) s = .next u ∧ exec (.ps0b seg c0 c1) s = .next u ∧
      (∀ i, nameGet u.psConf i =
        if i = psOffset seg then c0 else if i = psOffset seg + 1 then c1 else nameGet s.psConf i) ∧
      u.psCand = s.psCand ∧
      (seg = 3 ∧ u.psConf = u.psCand ∧ u.psConf ≠ s.psPub → u.psPub = u.psConf ∧ u.psEvent = some u.psConf) ∧
      (¬ (seg = 3 ∧ u.psConf = u.psCand ∧ u.psConf ≠ s.psPub) → u.psPub = s.psPub ∧ u.psEvent = none)

/-- Derived (`41_service_name.md` R125, R127 case a). The same pair seen twice in a row at one segment is confirmed,
from every state, whichever versions the two groups have. -/
def Obligations.TwoSightingsConfirmPair : Prop :=
  ∀ (s : State) (seg : BitVec 2) (c0 c1 : Byte) (i j : Instr),
    (i = .ps0a seg c0 c1 ∨ i = .ps0b seg c0 c1) → (j = .ps0a seg c0 c1 ∨ j = .ps0b seg c0 c1) →
    ∃ u v, exec i s = .next u ∧ exec j u = .next v ∧
      nameGet v.psCand (psOffset seg) = c0 ∧ nameGet v.psCand (psOffset seg + 1) = c1 ∧
      nameGet v.psConf (psOffset seg) = c0 ∧ nameGet v.psConf (psOffset seg + 1) = c1

/-- Derived (`41_service_name.md` R128 (P1), `10_state.md` R34 (b), (c)). A name is published only by a service-name
group with seg = 3 on the match branch, it differs from the name published before, and it is what PS_CONF, PS_CAND and
PS_PUB all hold after that step. -/
def Obligations.PublishOnlyOnConfirmedLastSegment : Prop :=
  ∀ (s u : State) (name : NameBuf), step s = .next u → u.psEvent = some name →
    ∃ t rest c0 c1, s.stream = t :: rest ∧ (decode t = .ps0a 3 c0 c1 ∨ decode t = .ps0b 3 c0 c1) ∧
      nameGet s.psCand 6 = c0 ∧ nameGet s.psCand 7 = c1 ∧ name ≠ s.psPub ∧
      u.psPub = name ∧ u.psConf = name ∧ u.psCand = name ∧ s.psCand = name

/-- Derived (`10_state.md` R24, `70_reset_and_hazards.md` R222). Over every step PS_PUB changes only by a publish, then
it takes the value of PS_CONF, which is the event, or by RST, then it takes PS_PUB_RESET. -/
def Obligations.PublishedNameChangesOnlyByPublishOrReset : Prop :=
  ∀ s u : State, step s = .next u → u.psPub ≠ s.psPub →
    (u.label.cls = .rst ∧ u.psPub = s.cfg.psPubReset) ∨ (u.label.cls = .ps ∧ u.psEvent = some u.psPub ∧ u.psPub = u.psConf)

/-- Derived (`41_service_name.md` R128 (P2), R127 case d). Once the three buffers hold one name, no run whose
service-name groups all carry that name, with no RST in it, publishes anything, whatever other groups it holds. -/
def Obligations.UnchangedNameIsNeverRepublished : Prop :=
  ∀ (s : State) (name : NameBuf), s.psCand = name → s.psConf = name → s.psPub = name →
    (∀ t ∈ s.stream, classOf (decode t) ≠ .rst ∧
      (classOf (decode t) = .ps → ∃ seg, CarriesPair name seg (decode t))) →
    ∀ n, psTrace n s = []

/-- Derived (`41_service_name.md` R128 (P4), for every name). Each segment of a name twice in a row, segments in order:
the name is published once, at the second sighting of segment 3, from every state that does not already hold it as
published nor its last pair as candidate. -/
def Obligations.NameSeenTwiceIsPublishedOnce : Prop :=
  ∀ (s : State) (name : NameBuf), s.psPub ≠ name →
    ¬ (nameGet s.psCand 6 = nameGet name 6 ∧ nameGet s.psCand 7 = nameGet name 7) →
    List.Forall₂ (CarriesPair name) [0, 0, 1, 1, 2, 2, 3, 3] ((s.stream.take 8).map decode) →
    psTrace 7 s = [] ∧ psTrace 8 s = [name]

/-! ### The radio text -/

/-- Stated, `42_radio_text.md` R142: a radio-text group whose flag differs from RT_TOGGLE, in either pass, clears the
buffer, the bitmap and the pass counter, records the flag, and is then the first segment of the new first sweep; no
condition is raised. -/
def Obligations.ToggleChangeStartsNewMessage : Prop :=
  ∀ (s : State) (tog : Bool) (seg : BitVec 4) (c0 c1 c2 c3 : Byte), tog ≠ s.rtToggle →
    (∃ u, exec (.rt2a tog seg c0 c1 c2 c3) s = .next u ∧
      (∀ k, u.rtByte k =
        if k = rtAddr .a seg then c0 else if k = rtAddr .a seg + 1 then c1
        else if k = rtAddr .a seg + 2 then c2 else if k = rtAddr .a seg + 3 then c3 else s.cfg.rtBlank) ∧
      u.rtBitmap = 1#16 <<< seg.toNat ∧ u.rtPass = .first ∧ u.rtToggle = tog ∧ u.rtEvent = none ∧
      u.psEvent = none ∧ u.label = ⟨.rt, none⟩ ∧ s.SameName u ∧ s.SameInput u) ∧
    (∃ u, exec (.rt2b tog seg c0 c1) s = .next u ∧
      (∀ k, u.rtByte k =
        if k = rtAddr .b seg then c0 else if k = rtAddr .b seg + 1 then c1 else s.cfg.rtBlank) ∧
      u.rtBitmap = 1#16 <<< seg.toNat ∧ u.rtPass = .first ∧ u.rtToggle = tog ∧ u.rtEvent = none ∧
      u.psEvent = none ∧ u.label = ⟨.rt, none⟩ ∧ s.SameName u ∧ s.SameInput u)

/-- Stated, `42_radio_text.md` R143: with RT_PASS = 0 (and no toggle change) the group's characters are written at its
address, whatever stood there and whether or not its bit was set, its bit is set, and no other byte changes. When the
group ends the sweep the bitmap is cleared after that (R146, the next statement). -/
def Obligations.FirstSweepWritesSegment : Prop :=
  ∀ (s : State) (seg : BitVec 4) (c0 c1 c2 c3 : Byte), s.rtPass = .first →
    (∃ u, exec (.rt2a s.rtToggle seg c0 c1 c2 c3) s = .next u ∧
      (∀ k, u.rtByte k =
        if k = rtAddr .a seg then c0 else if k = rtAddr .a seg + 1 then c1
        else if k = rtAddr .a seg + 2 then c2 else if k = rtAddr .a seg + 3 then c3 else s.rtByte k) ∧
      (u.rtPass = .first → u.rtBitmap = s.rtBitmap ||| 1#16 <<< seg.toNat) ∧
      u.rtToggle = s.rtToggle ∧ u.rtEvent = none ∧ u.psEvent = none ∧ u.label = ⟨.rt, none⟩ ∧
      s.SameName u ∧ s.SameInput u) ∧
    (∃ u, exec (.rt2b s.rtToggle seg c0 c1) s = .next u ∧
      (∀ k, u.rtByte k =
        if k = rtAddr .b seg then c0 else if k = rtAddr .b seg + 1 then c1 else s.rtByte k) ∧
      (u.rtPass = .first → u.rtBitmap = s.rtBitmap ||| 1#16 <<< seg.toNat) ∧
      u.rtToggle = s.rtToggle ∧ u.rtEvent = none ∧ u.psEvent = none ∧ u.label = ⟨.rt, none⟩ ∧
      s.SameName u ∧ s.SameInput u)

/-- Derived; equality with the target is D9 (log 12), the version-B target is kept literally (log 18). The end of the
first sweep (`42_radio_text.md` R145, R146): when the bitmap with the group's bit equals 0xFFFF (version A) or 0x00FF
(version B) it is cleared and the verification sweep begins; otherwise the bit is set and the first sweep goes on. -/
def Obligations.FirstSweepEndsAtTarget : Prop :=
  ∀ (s : State) (seg : BitVec 4) (c0 c1 c2 c3 : Byte), s.rtPass = .first →
    (∃ u, exec (.rt2a s.rtToggle seg c0 c1 c2 c3) s = .next u ∧
      (s.rtBitmap ||| 1#16 <<< seg.toNat = 0xFFFF → u.rtBitmap = 0x0000 ∧ u.rtPass = .verify) ∧
      (s.rtBitmap ||| 1#16 <<< seg.toNat ≠ 0xFFFF →
        u.rtBitmap = s.rtBitmap ||| 1#16 <<< seg.toNat ∧ u.rtPass = .first)) ∧
    (∃ u, exec (.rt2b s.rtToggle seg c0 c1) s = .next u ∧
      (s.rtBitmap ||| 1#16 <<< seg.toNat = 0x00FF → u.rtBitmap = 0x0000 ∧ u.rtPass = .verify) ∧
      (s.rtBitmap ||| 1#16 <<< seg.toNat ≠ 0x00FF →
        u.rtBitmap = s.rtBitmap ||| 1#16 <<< seg.toNat ∧ u.rtPass = .first))

/-- Derived; the bit set on a match is D10 (log 13), equality D9 (log 12), the untrimmed 65-byte event D11 (log 14). A
matching group of the verification sweep (`42_radio_text.md` R144, R145, R147): RT_BUF is not written; its bit is set,
or, when that completes the target, bitmap and pass are cleared and the event is the 64 bytes in address order and a
0x00. -/
def Obligations.VerificationMatchCompletesOrMarks : Prop :=
  ∀ (s : State) (seg : BitVec 4), s.rtPass = .verify →
    (∃ u, exec (.rt2a s.rtToggle seg (s.rtByte (rtAddr .a seg)) (s.rtByte (rtAddr .a seg + 1))
          (s.rtByte (rtAddr .a seg + 2)) (s.rtByte (rtAddr .a seg + 3))) s = .next u ∧
      (∀ k, u.rtByte k = s.rtByte k) ∧ u.rtToggle = s.rtToggle ∧ u.psEvent = none ∧ u.label = ⟨.rt, none⟩ ∧
      s.SameName u ∧ s.SameInput u ∧
      (s.rtBitmap ||| 1#16 <<< seg.toNat = 0xFFFF → u.rtBitmap = 0x0000 ∧ u.rtPass = .first ∧
        ∃ x : TextEvent, u.rtEvent = some x ∧ x[64] = 0x00 ∧
          ∀ (k : Nat) (hk : k < 64), x[k] = s.rtByte (BitVec.ofNat 6 k)) ∧
      (s.rtBitmap ||| 1#16 <<< seg.toNat ≠ 0xFFFF →
        u.rtBitmap = s.rtBitmap ||| 1#16 <<< seg.toNat ∧ u.rtPass = .verify ∧ u.rtEvent = none)) ∧
    (∃ u, exec (.rt2b s.rtToggle seg (s.rtByte (rtAddr .b seg)) (s.rtByte (rtAddr .b seg + 1))) s = .next u ∧
      (∀ k, u.rtByte k = s.rtByte k) ∧ u.rtToggle = s.rtToggle ∧ u.psEvent = none ∧ u.label = ⟨.rt, none⟩ ∧
      s.SameName u ∧ s.SameInput u ∧
      (s.rtBitmap ||| 1#16 <<< seg.toNat = 0x00FF → u.rtBitmap = 0x0000 ∧ u.rtPass = .first ∧
        ∃ x : TextEvent, u.rtEvent = some x ∧ x[64] = 0x00 ∧
          ∀ (k : Nat) (hk : k < 64), x[k] = s.rtByte (BitVec.ofNat 6 k)) ∧
      (s.rtBitmap ||| 1#16 <<< seg.toNat ≠ 0x00FF →
        u.rtBitmap = s.rtBitmap ||| 1#16 <<< seg.toNat ∧ u.rtPass = .verify ∧ u.rtEvent = none))

/-- Stated, `60_exceptions.md` R192: a group of the verification sweep with at least one byte that differs from the byte
stored at its address clears the radio-text state and raises VerificationMismatch, without event, with RT_TOGGLE and the
service name unchanged; and nothing else raises it: not a service-name group, not while RT_PASS = 0. -/
def Obligations.VerificationMismatchClearsText : Prop :=
  (∀ (s : State) (seg : BitVec 4) (c0 c1 c2 c3 : Byte), s.rtPass = .verify →
    (¬ (s.rtByte (rtAddr .a seg) = c0 ∧ s.rtByte (rtAddr .a seg + 1) = c1 ∧ s.rtByte (rtAddr .a seg + 2) = c2 ∧
        s.rtByte (rtAddr .a seg + 3) = c3) →
      ∃ u, exec (.rt2a s.rtToggle seg c0 c1 c2 c3) s = .next u ∧ u.RtCleared ∧ u.rtToggle = s.rtToggle ∧
        u.rtEvent = none ∧ u.psEvent = none ∧ u.label = ⟨.rt, some .verificationMismatch⟩ ∧ s.SameName u ∧
        s.SameInput u) ∧
    (¬ (s.rtByte (rtAddr .b seg) = c0 ∧ s.rtByte (rtAddr .b seg + 1) = c1) →
      ∃ u, exec (.rt2b s.rtToggle seg c0 c1) s = .next u ∧ u.RtCleared ∧ u.rtToggle = s.rtToggle ∧
        u.rtEvent = none ∧ u.psEvent = none ∧ u.label = ⟨.rt, some .verificationMismatch⟩ ∧ s.SameName u ∧
        s.SameInput u)) ∧
  (∀ (i : Instr) (s u : State), exec i s = .next u → u.label.cond = some .verificationMismatch →
    s.rtPass = .verify ∧
    ((∃ seg c0 c1 c2 c3, i = .rt2a s.rtToggle seg c0 c1 c2 c3 ∧
        ¬ (s.rtByte (rtAddr .a seg) = c0 ∧ s.rtByte (rtAddr .a seg + 1) = c1 ∧
          s.rtByte (rtAddr .a seg + 2) = c2 ∧ s.rtByte (rtAddr .a seg + 3) = c3)) ∨
     (∃ seg c0 c1, i = .rt2b s.rtToggle seg c0 c1 ∧
        ¬ (s.rtByte (rtAddr .b seg) = c0 ∧ s.rtByte (rtAddr .b seg + 1) = c1))))

/-- Derived; the targets' equality test is D9 (log 12), reset D8 (log 7). RT_PASS as a state machine over every operation
(`10_state.md` R27, `42_radio_text.md` R148): it goes to 1 only when a radio-text group without toggle change completes
its version's target, and back to 0 only with an emitted text, a mismatch, a toggle change or RST. -/
def Obligations.PassCounterTransitions : Prop :=
  ∀ (i : Instr) (s u : State), exec i s = .next u →
    (s.rtPass = .first → u.rtPass = .verify → u.rtBitmap = 0x0000 ∧
      ((∃ seg c0 c1 c2 c3, i = .rt2a s.rtToggle seg c0 c1 c2 c3 ∧ s.rtBitmap ||| 1#16 <<< seg.toNat = 0xFFFF) ∨
       (∃ seg c0 c1, i = .rt2b s.rtToggle seg c0 c1 ∧ s.rtBitmap ||| 1#16 <<< seg.toNat = 0x00FF))) ∧
    (s.rtPass = .verify → u.rtPass = .first →
      u.rtEvent ≠ none ∨ u.label.cond = some .verificationMismatch ∨
      (u.label.cls = .rt ∧ u.rtToggle ≠ s.rtToggle) ∨ u.label.cls = .rst)

/-- Derived; that the toggle flag is the bit of weight 2^4 of block B rests on D3 (log 8). After every radio-text group,
of either version and whatever else happens in its step, a verification mismatch included, RT_TOGGLE equals that group's
B[4], so it is written only when the flag differs; service name and ignored groups neither write nor read it
(`10_state.md` R28). -/
def Obligations.ToggleFlagFollowsRadioText : Prop :=
  (∀ (s : State) (t : Transaction), t.rst = false → t.ready = true → t.b.extractLsb' 12 4 = 2 →
    ∃ u, step (s.presentNext t) = .next u ∧ u.rtToggle = t.b.getLsbD 4 ∧
      (u.label.cond = some .verificationMismatch → u.rtToggle = s.rtToggle)) ∧
  (∀ (i : Instr) (s : State), classOf i = .ps ∨ classOf i = .ign →
    ∃ u, exec i s = .next u ∧ u.rtToggle = s.rtToggle ∧
      ∀ g : Bool, exec i { s with rtToggle := g } = .next { u with rtToggle := g })

/-- Derived (`10_state.md` R34 (e)). While RT_PASS = 1 no byte of RT_BUF changes except by a clear: if some byte changed
in a step, the step was RST, a mismatch or a toggle change. -/
def Obligations.VerificationSweepNeverWritesText : Prop :=
  ∀ (i : Instr) (s u : State) (a : Addr), exec i s = .next u → s.rtPass = .verify → u.rtByte a ≠ s.rtByte a →
    u.label.cls = .rst ∨ u.label.cond = some .verificationMismatch ∨ (u.label.cls = .rt ∧ u.rtToggle ≠ s.rtToggle)

/-- Derived; rests on D9 and on the literal version-B target (log 12, 18). `42_radio_text.md` R149 (b): once a bit above
bit 7 is set in a first sweep, no run of version-B groups with the same toggle, with any other groups but version-A text
and RST between them, ends the sweep or emits a text. -/
def Obligations.HighSegmentBlocksVersionB : Prop :=
  ∀ s : State, s.rtPass = .first → s.rtBitmap.extractLsb' 8 8 ≠ 0 →
    (∀ t ∈ s.stream, classOf (decode t) ≠ .rst ∧
      (classOf (decode t) = .rt → ∃ seg c0 c1, decode t = .rt2b s.rtToggle seg c0 c1)) →
    ∀ n, rtTrace n s = [] ∧ ∃ u, Host.Core.run Sys2Proof.core n s = .next u ∧ u.rtPass = Pass.first

/-- Derived; rests on D9 to D11 (log 12, 13, 14); the groups are given by their characters.
`42_radio_text.md` R153 (Q1): all 16 version-A segments of a text, in any order, and then all 16 again, in any order,
emit exactly that text, at the last of the 32 groups and not before, from every state with RT_BITMAP = 0 and RT_PASS = 0,
and from every state at all when the first group changes the toggle. -/
def Obligations.TwoCleanSweepsEmitText : Prop :=
  ∀ (s : State) (text : TextBuf) (tog : Bool) (p q : List (BitVec 4)),
    p.Nodup → p.length = 16 → q.Nodup → q.length = 16 →
    (s.rtBitmap = 0x0000 ∧ s.rtPass = .first) ∨ tog ≠ s.rtToggle →
    (s.stream.take 32).map decode = (p ++ q).map (textGroupA tog text) →
    rtTrace 31 s = [] ∧ rtTrace 32 s = [text.push 0x00]

/-- Derived; rests on D9 (log 12). `42_radio_text.md` R152 (j), `70_reset_and_hazards.md` R224: from a state with
RT_BITMAP = 0 and RT_PASS = 0 no text is emitted before the 16th radio-text group, and without version-B groups none
before the 32nd. -/
def Obligations.NoTextBeforeTwoSweeps : Prop :=
  ∀ (s : State) (n : Nat), s.rtBitmap = 0x0000 → s.rtPass = .first →
    ((s.stream.take n).countP (fun t => classOf (decode t) == .rt) < 16 → rtTrace n s = []) ∧
    ((∀ t ∈ s.stream.take n, ∀ tog seg c0 c1, decode t ≠ .rt2b tog seg c0 c1) →
      (s.stream.take n).countP (fun t => classOf (decode t) == .rt) < 32 → rtTrace n s = [])

/-- Derived; rests on D9 to D11 (log 12, 13, 14). A text is emitted only by a radio-text group of the verification sweep,
without toggle change, whose bytes all equal the stored ones and whose bit completes its version's target; the event is
the 64 bytes of RT_BUF in address order and a 0x00 (`42_radio_text.md` R144, R145, R147). -/
def Obligations.TextOnlyAfterMatchingSweep : Prop :=
  ∀ (i : Instr) (s u : State) (x : TextEvent), exec i s = .next u → u.rtEvent = some x →
    s.rtPass = .verify ∧ x[64] = 0x00 ∧ (∀ (k : Nat) (hk : k < 64), x[k] = s.rtByte (BitVec.ofNat 6 k)) ∧
    ((∃ seg, i = .rt2a s.rtToggle seg (s.rtByte (rtAddr .a seg)) (s.rtByte (rtAddr .a seg + 1))
          (s.rtByte (rtAddr .a seg + 2)) (s.rtByte (rtAddr .a seg + 3)) ∧
        s.rtBitmap ||| 1#16 <<< seg.toNat = 0xFFFF) ∨
     (∃ seg, i = .rt2b s.rtToggle seg (s.rtByte (rtAddr .b seg)) (s.rtByte (rtAddr .b seg + 1)) ∧
        s.rtBitmap ||| 1#16 <<< seg.toNat = 0x00FF))

/-! ### The whole machine -/

/-- Derived (`40_classifier.md` R104). The radio-text result of a run is what it would be without the service-name,
ignored and idle transactions: the same radio-text registers at the end and the same texts, in order. -/
def Obligations.RadioTextIndependentOfOtherGroups : Prop :=
  ∀ s : State,
    let kept := s.stream.filter fun t => classOf (decode t) == .rt || classOf (decode t) == .rst
    rtTrace s.stream.length s = rtTrace kept.length { s with stream := kept } ∧
    ∃ u v, Host.Core.run Sys2Proof.core s.stream.length s = .next u ∧
      Host.Core.run Sys2Proof.core kept.length { s with stream := kept } = .next v ∧ State.SameText u v

/-- Derived (`40_classifier.md` R104). The reverse: the service-name result of a run is what it would be without the
radio-text, ignored and idle transactions. -/
def Obligations.ServiceNameIndependentOfOtherGroups : Prop :=
  ∀ s : State,
    let kept := s.stream.filter fun t => classOf (decode t) == .ps || classOf (decode t) == .rst
    psTrace s.stream.length s = psTrace kept.length { s with stream := kept } ∧
    ∃ u v, Host.Core.run Sys2Proof.core s.stream.length s = .next u ∧
      Host.Core.run Sys2Proof.core kept.length { s with stream := kept } = .next v ∧ State.SameName u v

/-- Derived (`10_state.md` R34 (c), (d), (f); `60_exceptions.md` R191, R193, R197); the canonical form of RT_BUF is the
model's (log 19), the outputs and the label its own fields (log 3, 4). Every step keeps the invariant. -/
def Obligations.EveryStepKeepsInv : Prop :=
  ∀ s u : State, Inv s → step s = .next u → Inv u

/-- Derived, as the statement before. The invariant holds after reset. -/
def Obligations.ResetSatisfiesInv : Prop :=
  Inv State.reset
end

