-- ==== Sys2Proof/Laws/Decode.lean ====
section
/-! SUPPORT. What the decoder and the encoder do, said once: the layout's round trip, the fields of an encoded block,
and the decoding of each class of transaction. -/
namespace Sys2Proof

/-! ### Layout -/

/-- The bits of a transaction's 66-bit value, block by block (`30_encoding.md` R70). -/
theorem Transaction.getLsbD_toBits (t : Transaction) (n : Nat) : t.toBits.getLsbD n =
    (BitVec.ofBool t.rst ++ BitVec.ofBool t.ready ++ t.a ++ t.b ++ t.c ++ t.d).getLsbD n := rfl

@[simp] theorem Transaction.ofBits_toBits (t : Transaction) : Transaction.ofBits t.toBits = t := by
  have key := t.getLsbD_toBits
  simp only [BitVec.getLsbD_append] at key
  obtain ⟨rst, ready, a, b, c, d⟩ := t
  simp only [Transaction.ofBits, Transaction.mk.injEq]
  refine ⟨?_, ?_, ?_, ?_, ?_, ?_⟩
  · rw [key]; simp
  · rw [key]; simp
  all_goals
    ext i hi
    rw [BitVec.getElem_extractLsb', key]
    grind

/-- The bits of the operation word (`30_encoding.md` R70). -/
theorem Transaction.getLsbD_opWord (t : Transaction) (n : Nat) : t.opWord.getLsbD n =
    if n < 16 then t.b.getLsbD n else if n = 16 then t.ready else if n = 17 then t.rst else false := by
  have key : t.opWord.getLsbD n = (BitVec.ofBool t.rst ++ BitVec.ofBool t.ready ++ t.b).getLsbD n := rfl
  rw [key]
  simp only [BitVec.getLsbD_append]
  split
  · rfl
  · next h =>
    obtain rfl | rfl | h2 : n = 16 ∨ n = 17 ∨ 17 < n := by omega
    · simp
    · simp
    · rw [if_neg (by omega), if_neg (by omega), if_neg (by omega)]
      exact BitVec.getLsbD_of_ge _ _ (by omega)

/-- The operation word read back. -/
@[simp] theorem Transaction.ofOpWord_opWord (t : Transaction) :
    Transaction.ofOpWord t.opWord = { t with a := 0, c := 0, d := 0 } := by
  have key := t.getLsbD_opWord
  simp only [Transaction.ofOpWord, Transaction.mk.injEq, true_and, and_true]
  refine ⟨by rw [key]; simp, by rw [key]; simp, ?_⟩
  ext i hi
  rw [BitVec.getElem_extractLsb', key]
  grind

/-! ### Characters of a block -/

theorem getLsbD_chars (x y : Byte) (n : Nat) :
    BitVec.getLsbD (w := 16) (x ++ y) n = if n < 8 then y.getLsbD n else x.getLsbD (n - 8) :=
  BitVec.getLsbD_append

@[simp] theorem firstChar_append (x y : Byte) : firstChar (x ++ y) = x := by
  ext i hi
  rw [firstChar, BitVec.getElem_extractLsb', getLsbD_chars]
  grind

@[simp] theorem secondChar_append (x y : Byte) : secondChar (x ++ y) = y := by
  ext i hi
  rw [secondChar, BitVec.getElem_extractLsb', getLsbD_chars]
  grind

/-- A block is its two characters. -/
theorem append_chars (w : Word) : (firstChar w ++ secondChar w : Word) = w := by
  apply BitVec.eq_of_getLsbD_eq
  intro i hi
  rw [getLsbD_chars, firstChar, secondChar, BitVec.getLsbD_extractLsb', BitVec.getLsbD_extractLsb']
  grind

/-! ### Fields of an encoded block B (`30_encoding.md` R73 to R76) -/

@[simp] theorem groupType_blockPS (v : Version) (seg : BitVec 2) : groupType (blockPS v seg) = ⟨0, v⟩ := by
  cases v <;> revert seg <;> decide

@[simp] theorem psSegField_blockPS (v : Version) (seg : BitVec 2) : psSegField (blockPS v seg) = seg := by
  cases v <;> revert seg <;> decide

@[simp] theorem groupType_blockRT (v : Version) (tog : Bool) (seg : BitVec 4) :
    groupType (blockRT v tog seg) = ⟨2, v⟩ := by
  cases v <;> cases tog <;> revert seg <;> decide

@[simp] theorem toggleField_blockRT (v : Version) (tog : Bool) (seg : BitVec 4) :
    toggleField (blockRT v tog seg) = tog := by
  cases v <;> cases tog <;> revert seg <;> decide

@[simp] theorem rtSegField_blockRT (v : Version) (tog : Bool) (seg : BitVec 4) :
    rtSegField (blockRT v tog seg) = seg := by
  cases v <;> cases tog <;> revert seg <;> decide

@[simp] theorem groupType_blockIGN (g : BitVec 4) (v : Version) : groupType (blockIGN g v) = ⟨g, v⟩ := by
  cases v <;> revert g <;> decide

/-! ### The group number and version as the number of the type (`30_encoding.md` R77) -/

theorem GroupType.number_toNat (t : GroupType) : t.number.toNat = 2 * t.gn.toNat + t.ver.toBit.toNat := by
  obtain ⟨g, v⟩ := t
  cases v <;> revert g <;> decide

/-! ### The decoder by class (`30_encoding.md` R80, `40_classifier.md` R103, R105) -/

theorem decode_rst {t : Transaction} (h : t.rst = true) : decode t = .rst := by
  simp [decode, h]

theorem decode_idle {t : Transaction} (h : t.rst = false) (hr : t.ready = false) : decode t = .idle := by
  simp [decode, h, hr]

theorem decode_ready {t : Transaction} (h : t.rst = false) (hr : t.ready = true) : decode t = decodeGroup t := by
  simp [decode, h, hr]

theorem decodeGroup_ps0a {t : Transaction} (h : groupType t.b = ⟨0, .a⟩) :
    decodeGroup t = .ps0a (psSegField t.b) (firstChar t.d) (secondChar t.d) := by
  unfold decodeGroup; rw [h]; rfl

theorem decodeGroup_ps0b {t : Transaction} (h : groupType t.b = ⟨0, .b⟩) :
    decodeGroup t = .ps0b (psSegField t.b) (firstChar t.d) (secondChar t.d) := by
  unfold decodeGroup; rw [h]; rfl

theorem decodeGroup_rt2a {t : Transaction} (h : groupType t.b = ⟨2, .a⟩) :
    decodeGroup t = .rt2a (toggleField t.b) (rtSegField t.b) (firstChar t.c) (secondChar t.c) (firstChar t.d)
      (secondChar t.d) := by
  unfold decodeGroup; rw [h]; rfl

theorem decodeGroup_rt2b {t : Transaction} (h : groupType t.b = ⟨2, .b⟩) :
    decodeGroup t = .rt2b (toggleField t.b) (rtSegField t.b) (firstChar t.d) (secondChar t.d) := by
  unfold decodeGroup; rw [h]; rfl

/-- The ignored operation of a group type; for group numbers 0 and 2, which are not ignored, it answers IDLE. -/
def ignoredOf (t : GroupType) : Instr :=
  match t.gn.toNat, t.ver with
  | 1, .a => .ign1a | 1, .b => .ign1b | 3, .a => .ign3a | 3, .b => .ign3b
  | 4, .a => .ign4a | 4, .b => .ign4b | 5, .a => .ign5a | 5, .b => .ign5b
  | 6, .a => .ign6a | 6, .b => .ign6b | 7, .a => .ign7a | 7, .b => .ign7b
  | 8, .a => .ign8a | 8, .b => .ign8b | 9, .a => .ign9a | 9, .b => .ign9b
  | 10, .a => .ign10a | 10, .b => .ign10b | 11, .a => .ign11a | 11, .b => .ign11b
  | 12, .a => .ign12a | 12, .b => .ign12b | 13, .a => .ign13a | 13, .b => .ign13b
  | 14, .a => .ign14a | 14, .b => .ign14b | 15, .a => .ign15a | 15, .b => .ign15b
  | _, _ => .idle

/-- A group number other than 0 and 2 selects that number's ignored operation (`40_classifier.md` R105). -/
theorem decodeGroup_ignored {t : Transaction} (h0 : (groupType t.b).gn ≠ 0) (h2 : (groupType t.b).gn ≠ 2) :
    decodeGroup t = ignoredOf (groupType t.b) := by
  unfold decodeGroup ignoredOf
  rw [GroupType.number_toNat]
  generalize groupType t.b = g at *
  obtain ⟨gn, v⟩ := g
  simp only at h0 h2 ⊢
  have hlt := gn.isLt
  have e : gn = BitVec.ofNat 4 gn.toNat := by simp
  generalize gn.toNat = k at *
  subst e
  cases v <;> interval_cases k <;> first | rfl | exact absurd rfl h0 | exact absurd rfl h2

/-- Such an operation is one of the 28. -/
theorem ignoredOf_mem {g : GroupType} (h0 : g.gn ≠ 0) (h2 : g.gn ≠ 2) : ignoredOf g ∈ Instr.ignoredOps := by
  obtain ⟨gn, v⟩ := g
  cases v <;> revert gn <;> decide

/-! ### The table (`30_encoding.md` R81) -/

/-- The operation word of a ready group holds the group type above bit 10. -/
theorem opWord_readyGroup_ps (v : Version) (seg : BitVec 2) (d : Word) :
    (readyGroup (blockPS v seg) 0 d).opWord &&& 0x3F800#18 = 0x10000#18 ||| (v.toBit.setWidth 18 <<< 11) := by
  show BitVec.ofBool false ++ BitVec.ofBool true ++ blockPS v seg &&& 0x3F800#18 = _
  cases v <;> revert seg <;> decide

theorem opWord_readyGroup_rt (v : Version) (tog : Bool) (seg : BitVec 4) (c d : Word) :
    (readyGroup (blockRT v tog seg) c d).opWord &&& 0x3F800#18 = 0x12000#18 ||| (v.toBit.setWidth 18 <<< 11) := by
  show BitVec.ofBool false ++ BitVec.ofBool true ++ blockRT v tog seg &&& 0x3F800#18 = _
  cases v <;> cases tog <;> revert seg <;> decide

end Sys2Proof
end

