-- ==== Sys2Proof/Laws/State.lean ====
section
/-! SUPPORT. One lemma per field per update of State, true by `rfl`, so that no later proof unfolds a record update. -/
namespace Sys2Proof.Machine

/-! ### endStep -/

@[simp] theorem State.endStep_psCand (s : State) (k : StepClass) (c : Option Condition) (p : Option NameBuf) (r : Option TextEvent) : (s.endStep k c p r).psCand = s.psCand := rfl
@[simp] theorem State.endStep_psConf (s : State) (k : StepClass) (c : Option Condition) (p : Option NameBuf) (r : Option TextEvent) : (s.endStep k c p r).psConf = s.psConf := rfl
@[simp] theorem State.endStep_psPub (s : State) (k : StepClass) (c : Option Condition) (p : Option NameBuf) (r : Option TextEvent) : (s.endStep k c p r).psPub = s.psPub := rfl
@[simp] theorem State.endStep_rtBuf (s : State) (k : StepClass) (c : Option Condition) (p : Option NameBuf) (r : Option TextEvent) : (s.endStep k c p r).rtBuf = s.rtBuf := rfl
@[simp] theorem State.endStep_rtBitmap (s : State) (k : StepClass) (c : Option Condition) (p : Option NameBuf) (r : Option TextEvent) : (s.endStep k c p r).rtBitmap = s.rtBitmap := rfl
@[simp] theorem State.endStep_rtPass (s : State) (k : StepClass) (c : Option Condition) (p : Option NameBuf) (r : Option TextEvent) : (s.endStep k c p r).rtPass = s.rtPass := rfl
@[simp] theorem State.endStep_rtToggle (s : State) (k : StepClass) (c : Option Condition) (p : Option NameBuf) (r : Option TextEvent) : (s.endStep k c p r).rtToggle = s.rtToggle := rfl
@[simp] theorem State.endStep_psEvent (s : State) (k : StepClass) (c : Option Condition) (p : Option NameBuf) (r : Option TextEvent) : (s.endStep k c p r).psEvent = p := rfl
@[simp] theorem State.endStep_rtEvent (s : State) (k : StepClass) (c : Option Condition) (p : Option NameBuf) (r : Option TextEvent) : (s.endStep k c p r).rtEvent = r := rfl
@[simp] theorem State.endStep_label (s : State) (k : StepClass) (c : Option Condition) (p : Option NameBuf) (r : Option TextEvent) : (s.endStep k c p r).label = ⟨k, c⟩ := rfl
@[simp] theorem State.endStep_stream (s : State) (k : StepClass) (c : Option Condition) (p : Option NameBuf) (r : Option TextEvent) : (s.endStep k c p r).stream = s.stream := rfl
@[simp] theorem State.endStep_cfg (s : State) (k : StepClass) (c : Option Condition) (p : Option NameBuf) (r : Option TextEvent) : (s.endStep k c p r).cfg = s.cfg := rfl

/-! ### quiet -/

@[simp] theorem State.quiet_psCand (s : State) (k : StepClass) : (s.quiet k).psCand = s.psCand := rfl
@[simp] theorem State.quiet_psConf (s : State) (k : StepClass) : (s.quiet k).psConf = s.psConf := rfl
@[simp] theorem State.quiet_psPub (s : State) (k : StepClass) : (s.quiet k).psPub = s.psPub := rfl
@[simp] theorem State.quiet_rtBuf (s : State) (k : StepClass) : (s.quiet k).rtBuf = s.rtBuf := rfl
@[simp] theorem State.quiet_rtBitmap (s : State) (k : StepClass) : (s.quiet k).rtBitmap = s.rtBitmap := rfl
@[simp] theorem State.quiet_rtPass (s : State) (k : StepClass) : (s.quiet k).rtPass = s.rtPass := rfl
@[simp] theorem State.quiet_rtToggle (s : State) (k : StepClass) : (s.quiet k).rtToggle = s.rtToggle := rfl
@[simp] theorem State.quiet_psEvent (s : State) (k : StepClass) : (s.quiet k).psEvent = none := rfl
@[simp] theorem State.quiet_rtEvent (s : State) (k : StepClass) : (s.quiet k).rtEvent = none := rfl
@[simp] theorem State.quiet_label (s : State) (k : StepClass) : (s.quiet k).label = ⟨k, none⟩ := rfl
@[simp] theorem State.quiet_stream (s : State) (k : StepClass) : (s.quiet k).stream = s.stream := rfl
@[simp] theorem State.quiet_cfg (s : State) (k : StepClass) : (s.quiet k).cfg = s.cfg := rfl

/-! ### setRtByte -/

@[simp] theorem State.setRtByte_psCand (s : State) (a : Addr) (v : Byte) : (s.setRtByte a v).psCand = s.psCand := rfl
@[simp] theorem State.setRtByte_psConf (s : State) (a : Addr) (v : Byte) : (s.setRtByte a v).psConf = s.psConf := rfl
@[simp] theorem State.setRtByte_psPub (s : State) (a : Addr) (v : Byte) : (s.setRtByte a v).psPub = s.psPub := rfl
@[simp] theorem State.setRtByte_rtBuf (s : State) (a : Addr) (v : Byte) : (s.setRtByte a v).rtBuf = Memory.write s.cfg.rtBlank s.rtBuf a.toNat v := rfl
@[simp] theorem State.setRtByte_rtBitmap (s : State) (a : Addr) (v : Byte) : (s.setRtByte a v).rtBitmap = s.rtBitmap := rfl
@[simp] theorem State.setRtByte_rtPass (s : State) (a : Addr) (v : Byte) : (s.setRtByte a v).rtPass = s.rtPass := rfl
@[simp] theorem State.setRtByte_rtToggle (s : State) (a : Addr) (v : Byte) : (s.setRtByte a v).rtToggle = s.rtToggle := rfl
@[simp] theorem State.setRtByte_psEvent (s : State) (a : Addr) (v : Byte) : (s.setRtByte a v).psEvent = s.psEvent := rfl
@[simp] theorem State.setRtByte_rtEvent (s : State) (a : Addr) (v : Byte) : (s.setRtByte a v).rtEvent = s.rtEvent := rfl
@[simp] theorem State.setRtByte_label (s : State) (a : Addr) (v : Byte) : (s.setRtByte a v).label = s.label := rfl
@[simp] theorem State.setRtByte_stream (s : State) (a : Addr) (v : Byte) : (s.setRtByte a v).stream = s.stream := rfl
@[simp] theorem State.setRtByte_cfg (s : State) (a : Addr) (v : Byte) : (s.setRtByte a v).cfg = s.cfg := rfl

/-! ### rtClear -/

@[simp] theorem State.rtClear_psCand (s : State) : (s.rtClear).psCand = s.psCand := rfl
@[simp] theorem State.rtClear_psConf (s : State) : (s.rtClear).psConf = s.psConf := rfl
@[simp] theorem State.rtClear_psPub (s : State) : (s.rtClear).psPub = s.psPub := rfl
@[simp] theorem State.rtClear_rtBuf (s : State) : (s.rtClear).rtBuf = [] := rfl
@[simp] theorem State.rtClear_rtBitmap (s : State) : (s.rtClear).rtBitmap = 0 := rfl
@[simp] theorem State.rtClear_rtPass (s : State) : (s.rtClear).rtPass = .first := rfl
@[simp] theorem State.rtClear_rtToggle (s : State) : (s.rtClear).rtToggle = s.rtToggle := rfl
@[simp] theorem State.rtClear_psEvent (s : State) : (s.rtClear).psEvent = s.psEvent := rfl
@[simp] theorem State.rtClear_rtEvent (s : State) : (s.rtClear).rtEvent = s.rtEvent := rfl
@[simp] theorem State.rtClear_label (s : State) : (s.rtClear).label = s.label := rfl
@[simp] theorem State.rtClear_stream (s : State) : (s.rtClear).stream = s.stream := rfl
@[simp] theorem State.rtClear_cfg (s : State) : (s.rtClear).cfg = s.cfg := rfl

/-! ### markSegment -/

@[simp] theorem State.markSegment_psCand (s : State) (g : BitVec 4) : (s.markSegment g).psCand = s.psCand := rfl
@[simp] theorem State.markSegment_psConf (s : State) (g : BitVec 4) : (s.markSegment g).psConf = s.psConf := rfl
@[simp] theorem State.markSegment_psPub (s : State) (g : BitVec 4) : (s.markSegment g).psPub = s.psPub := rfl
@[simp] theorem State.markSegment_rtBuf (s : State) (g : BitVec 4) : (s.markSegment g).rtBuf = s.rtBuf := rfl
@[simp] theorem State.markSegment_rtBitmap (s : State) (g : BitVec 4) : (s.markSegment g).rtBitmap = s.rtBitmap ||| segBit g := rfl
@[simp] theorem State.markSegment_rtPass (s : State) (g : BitVec 4) : (s.markSegment g).rtPass = s.rtPass := rfl
@[simp] theorem State.markSegment_rtToggle (s : State) (g : BitVec 4) : (s.markSegment g).rtToggle = s.rtToggle := rfl
@[simp] theorem State.markSegment_psEvent (s : State) (g : BitVec 4) : (s.markSegment g).psEvent = s.psEvent := rfl
@[simp] theorem State.markSegment_rtEvent (s : State) (g : BitVec 4) : (s.markSegment g).rtEvent = s.rtEvent := rfl
@[simp] theorem State.markSegment_label (s : State) (g : BitVec 4) : (s.markSegment g).label = s.label := rfl
@[simp] theorem State.markSegment_stream (s : State) (g : BitVec 4) : (s.markSegment g).stream = s.stream := rfl
@[simp] theorem State.markSegment_cfg (s : State) (g : BitVec 4) : (s.markSegment g).cfg = s.cfg := rfl

/-! ### resetRegisters -/

@[simp] theorem State.resetRegisters_psCand (s : State) : (s.resetRegisters).psCand = s.cfg.psCandReset := rfl
@[simp] theorem State.resetRegisters_psConf (s : State) : (s.resetRegisters).psConf = s.cfg.psConfReset := rfl
@[simp] theorem State.resetRegisters_psPub (s : State) : (s.resetRegisters).psPub = s.cfg.psPubReset := rfl
@[simp] theorem State.resetRegisters_rtBuf (s : State) : (s.resetRegisters).rtBuf = [] := rfl
@[simp] theorem State.resetRegisters_rtBitmap (s : State) : (s.resetRegisters).rtBitmap = 0 := rfl
@[simp] theorem State.resetRegisters_rtPass (s : State) : (s.resetRegisters).rtPass = .first := rfl
@[simp] theorem State.resetRegisters_rtToggle (s : State) : (s.resetRegisters).rtToggle = s.cfg.rtToggleReset := rfl
@[simp] theorem State.resetRegisters_psEvent (s : State) : (s.resetRegisters).psEvent = s.psEvent := rfl
@[simp] theorem State.resetRegisters_rtEvent (s : State) : (s.resetRegisters).rtEvent = s.rtEvent := rfl
@[simp] theorem State.resetRegisters_label (s : State) : (s.resetRegisters).label = s.label := rfl
@[simp] theorem State.resetRegisters_stream (s : State) : (s.resetRegisters).stream = s.stream := rfl
@[simp] theorem State.resetRegisters_cfg (s : State) : (s.resetRegisters).cfg = s.cfg := rfl

/-! ### takeIgnoredInput -/

@[simp] theorem State.takeIgnoredInput_psCand (s : State) : (s.takeIgnoredInput).psCand = s.psCand := rfl
@[simp] theorem State.takeIgnoredInput_psConf (s : State) : (s.takeIgnoredInput).psConf = s.psConf := rfl
@[simp] theorem State.takeIgnoredInput_psPub (s : State) : (s.takeIgnoredInput).psPub = s.psPub := rfl
@[simp] theorem State.takeIgnoredInput_rtBuf (s : State) : (s.takeIgnoredInput).rtBuf = s.rtBuf := rfl
@[simp] theorem State.takeIgnoredInput_rtBitmap (s : State) : (s.takeIgnoredInput).rtBitmap = s.rtBitmap := rfl
@[simp] theorem State.takeIgnoredInput_rtPass (s : State) : (s.takeIgnoredInput).rtPass = s.rtPass := rfl
@[simp] theorem State.takeIgnoredInput_rtToggle (s : State) : (s.takeIgnoredInput).rtToggle = s.rtToggle := rfl
@[simp] theorem State.takeIgnoredInput_psEvent (s : State) : (s.takeIgnoredInput).psEvent = none := rfl
@[simp] theorem State.takeIgnoredInput_rtEvent (s : State) : (s.takeIgnoredInput).rtEvent = none := rfl
@[simp] theorem State.takeIgnoredInput_label (s : State) : (s.takeIgnoredInput).label = ⟨.ign, some .ignoredInput⟩ := rfl
@[simp] theorem State.takeIgnoredInput_stream (s : State) : (s.takeIgnoredInput).stream = s.stream := rfl
@[simp] theorem State.takeIgnoredInput_cfg (s : State) : (s.takeIgnoredInput).cfg = s.cfg := rfl

/-! ### takeVerificationMismatch -/

@[simp] theorem State.takeVerificationMismatch_psCand (s : State) : (s.takeVerificationMismatch).psCand = s.psCand := rfl
@[simp] theorem State.takeVerificationMismatch_psConf (s : State) : (s.takeVerificationMismatch).psConf = s.psConf := rfl
@[simp] theorem State.takeVerificationMismatch_psPub (s : State) : (s.takeVerificationMismatch).psPub = s.psPub := rfl
@[simp] theorem State.takeVerificationMismatch_rtBuf (s : State) : (s.takeVerificationMismatch).rtBuf = [] := rfl
@[simp] theorem State.takeVerificationMismatch_rtBitmap (s : State) : (s.takeVerificationMismatch).rtBitmap = 0 := rfl
@[simp] theorem State.takeVerificationMismatch_rtPass (s : State) : (s.takeVerificationMismatch).rtPass = .first := rfl
@[simp] theorem State.takeVerificationMismatch_rtToggle (s : State) : (s.takeVerificationMismatch).rtToggle = s.rtToggle := rfl
@[simp] theorem State.takeVerificationMismatch_psEvent (s : State) : (s.takeVerificationMismatch).psEvent = none := rfl
@[simp] theorem State.takeVerificationMismatch_rtEvent (s : State) : (s.takeVerificationMismatch).rtEvent = none := rfl
@[simp] theorem State.takeVerificationMismatch_label (s : State) : (s.takeVerificationMismatch).label = ⟨.rt, some .verificationMismatch⟩ := rfl
@[simp] theorem State.takeVerificationMismatch_stream (s : State) : (s.takeVerificationMismatch).stream = s.stream := rfl
@[simp] theorem State.takeVerificationMismatch_cfg (s : State) : (s.takeVerificationMismatch).cfg = s.cfg := rfl

/-! ### publish -/

@[simp] theorem State.publish_psCand (s : State) : (s.publish).psCand = s.psCand := rfl
@[simp] theorem State.publish_psConf (s : State) : (s.publish).psConf = s.psConf := rfl
@[simp] theorem State.publish_psPub (s : State) : (s.publish).psPub = s.psConf := rfl
@[simp] theorem State.publish_rtBuf (s : State) : (s.publish).rtBuf = s.rtBuf := rfl
@[simp] theorem State.publish_rtBitmap (s : State) : (s.publish).rtBitmap = s.rtBitmap := rfl
@[simp] theorem State.publish_rtPass (s : State) : (s.publish).rtPass = s.rtPass := rfl
@[simp] theorem State.publish_rtToggle (s : State) : (s.publish).rtToggle = s.rtToggle := rfl
@[simp] theorem State.publish_psEvent (s : State) : (s.publish).psEvent = some s.psConf := rfl
@[simp] theorem State.publish_rtEvent (s : State) : (s.publish).rtEvent = none := rfl
@[simp] theorem State.publish_label (s : State) : (s.publish).label = ⟨.ps, none⟩ := rfl
@[simp] theorem State.publish_stream (s : State) : (s.publish).stream = s.stream := rfl
@[simp] theorem State.publish_cfg (s : State) : (s.publish).cfg = s.cfg := rfl

/-! ### presentNext -/

@[simp] theorem State.presentNext_psCand (s : State) (t : Transaction) : (s.presentNext t).psCand = s.psCand := rfl
@[simp] theorem State.presentNext_psConf (s : State) (t : Transaction) : (s.presentNext t).psConf = s.psConf := rfl
@[simp] theorem State.presentNext_psPub (s : State) (t : Transaction) : (s.presentNext t).psPub = s.psPub := rfl
@[simp] theorem State.presentNext_rtBuf (s : State) (t : Transaction) : (s.presentNext t).rtBuf = s.rtBuf := rfl
@[simp] theorem State.presentNext_rtBitmap (s : State) (t : Transaction) : (s.presentNext t).rtBitmap = s.rtBitmap := rfl
@[simp] theorem State.presentNext_rtPass (s : State) (t : Transaction) : (s.presentNext t).rtPass = s.rtPass := rfl
@[simp] theorem State.presentNext_rtToggle (s : State) (t : Transaction) : (s.presentNext t).rtToggle = s.rtToggle := rfl
@[simp] theorem State.presentNext_psEvent (s : State) (t : Transaction) : (s.presentNext t).psEvent = s.psEvent := rfl
@[simp] theorem State.presentNext_rtEvent (s : State) (t : Transaction) : (s.presentNext t).rtEvent = s.rtEvent := rfl
@[simp] theorem State.presentNext_label (s : State) (t : Transaction) : (s.presentNext t).label = s.label := rfl
@[simp] theorem State.presentNext_stream (s : State) (t : Transaction) : (s.presentNext t).stream = t :: s.stream := rfl
@[simp] theorem State.presentNext_cfg (s : State) (t : Transaction) : (s.presentNext t).cfg = s.cfg := rfl

/-! ### poll -/

@[simp] theorem State.poll_psCand (s : State) (rst : Bool) (x : RegisterFile) : (s.poll rst x).psCand = s.psCand := rfl
@[simp] theorem State.poll_psConf (s : State) (rst : Bool) (x : RegisterFile) : (s.poll rst x).psConf = s.psConf := rfl
@[simp] theorem State.poll_psPub (s : State) (rst : Bool) (x : RegisterFile) : (s.poll rst x).psPub = s.psPub := rfl
@[simp] theorem State.poll_rtBuf (s : State) (rst : Bool) (x : RegisterFile) : (s.poll rst x).rtBuf = s.rtBuf := rfl
@[simp] theorem State.poll_rtBitmap (s : State) (rst : Bool) (x : RegisterFile) : (s.poll rst x).rtBitmap = s.rtBitmap := rfl
@[simp] theorem State.poll_rtPass (s : State) (rst : Bool) (x : RegisterFile) : (s.poll rst x).rtPass = s.rtPass := rfl
@[simp] theorem State.poll_rtToggle (s : State) (rst : Bool) (x : RegisterFile) : (s.poll rst x).rtToggle = s.rtToggle := rfl
@[simp] theorem State.poll_psEvent (s : State) (rst : Bool) (x : RegisterFile) : (s.poll rst x).psEvent = s.psEvent := rfl
@[simp] theorem State.poll_rtEvent (s : State) (rst : Bool) (x : RegisterFile) : (s.poll rst x).rtEvent = s.rtEvent := rfl
@[simp] theorem State.poll_label (s : State) (rst : Bool) (x : RegisterFile) : (s.poll rst x).label = s.label := rfl
@[simp] theorem State.poll_stream (s : State) (rst : Bool) (x : RegisterFile) : (s.poll rst x).stream = s.stream ++ [snapshotTransaction s.cfg rst x] := rfl
@[simp] theorem State.poll_cfg (s : State) (rst : Bool) (x : RegisterFile) : (s.poll rst x).cfg = s.cfg := rfl

/-! ### memWrite: every field but RT_BUF -/

@[simp] theorem State.memWrite_psCand (vs : List Byte) : ∀ (s : State) (a : Addr), (s.memWrite a vs).psCand = s.psCand := by
  induction vs with
  | nil => exact fun _ _ => rfl
  | cons v vs ih => exact fun s a => ih (s.setRtByte a v) (a + 1)

@[simp] theorem State.memWrite_psConf (vs : List Byte) : ∀ (s : State) (a : Addr), (s.memWrite a vs).psConf = s.psConf := by
  induction vs with
  | nil => exact fun _ _ => rfl
  | cons v vs ih => exact fun s a => ih (s.setRtByte a v) (a + 1)

@[simp] theorem State.memWrite_psPub (vs : List Byte) : ∀ (s : State) (a : Addr), (s.memWrite a vs).psPub = s.psPub := by
  induction vs with
  | nil => exact fun _ _ => rfl
  | cons v vs ih => exact fun s a => ih (s.setRtByte a v) (a + 1)

@[simp] theorem State.memWrite_rtBitmap (vs : List Byte) : ∀ (s : State) (a : Addr), (s.memWrite a vs).rtBitmap = s.rtBitmap := by
  induction vs with
  | nil => exact fun _ _ => rfl
  | cons v vs ih => exact fun s a => ih (s.setRtByte a v) (a + 1)

@[simp] theorem State.memWrite_rtPass (vs : List Byte) : ∀ (s : State) (a : Addr), (s.memWrite a vs).rtPass = s.rtPass := by
  induction vs with
  | nil => exact fun _ _ => rfl
  | cons v vs ih => exact fun s a => ih (s.setRtByte a v) (a + 1)

@[simp] theorem State.memWrite_rtToggle (vs : List Byte) : ∀ (s : State) (a : Addr), (s.memWrite a vs).rtToggle = s.rtToggle := by
  induction vs with
  | nil => exact fun _ _ => rfl
  | cons v vs ih => exact fun s a => ih (s.setRtByte a v) (a + 1)

@[simp] theorem State.memWrite_psEvent (vs : List Byte) : ∀ (s : State) (a : Addr), (s.memWrite a vs).psEvent = s.psEvent := by
  induction vs with
  | nil => exact fun _ _ => rfl
  | cons v vs ih => exact fun s a => ih (s.setRtByte a v) (a + 1)

@[simp] theorem State.memWrite_rtEvent (vs : List Byte) : ∀ (s : State) (a : Addr), (s.memWrite a vs).rtEvent = s.rtEvent := by
  induction vs with
  | nil => exact fun _ _ => rfl
  | cons v vs ih => exact fun s a => ih (s.setRtByte a v) (a + 1)

@[simp] theorem State.memWrite_label (vs : List Byte) : ∀ (s : State) (a : Addr), (s.memWrite a vs).label = s.label := by
  induction vs with
  | nil => exact fun _ _ => rfl
  | cons v vs ih => exact fun s a => ih (s.setRtByte a v) (a + 1)

@[simp] theorem State.memWrite_stream (vs : List Byte) : ∀ (s : State) (a : Addr), (s.memWrite a vs).stream = s.stream := by
  induction vs with
  | nil => exact fun _ _ => rfl
  | cons v vs ih => exact fun s a => ih (s.setRtByte a v) (a + 1)

@[simp] theorem State.memWrite_cfg (vs : List Byte) : ∀ (s : State) (a : Addr), (s.memWrite a vs).cfg = s.cfg := by
  induction vs with
  | nil => exact fun _ _ => rfl
  | cons v vs ih => exact fun s a => ih (s.setRtByte a v) (a + 1)

/-! ### toggleChange: the fields it never writes -/

@[simp] theorem State.toggleChange_psCand (s : State) (g : Bool) : (s.toggleChange g).psCand = s.psCand := by
  unfold State.toggleChange; split <;> rfl

@[simp] theorem State.toggleChange_psConf (s : State) (g : Bool) : (s.toggleChange g).psConf = s.psConf := by
  unfold State.toggleChange; split <;> rfl

@[simp] theorem State.toggleChange_psPub (s : State) (g : Bool) : (s.toggleChange g).psPub = s.psPub := by
  unfold State.toggleChange; split <;> rfl

@[simp] theorem State.toggleChange_psEvent (s : State) (g : Bool) : (s.toggleChange g).psEvent = s.psEvent := by
  unfold State.toggleChange; split <;> rfl

@[simp] theorem State.toggleChange_rtEvent (s : State) (g : Bool) : (s.toggleChange g).rtEvent = s.rtEvent := by
  unfold State.toggleChange; split <;> rfl

@[simp] theorem State.toggleChange_label (s : State) (g : Bool) : (s.toggleChange g).label = s.label := by
  unfold State.toggleChange; split <;> rfl

@[simp] theorem State.toggleChange_stream (s : State) (g : Bool) : (s.toggleChange g).stream = s.stream := by
  unfold State.toggleChange; split <;> rfl

@[simp] theorem State.toggleChange_cfg (s : State) (g : Bool) : (s.toggleChange g).cfg = s.cfg := by
  unfold State.toggleChange; split <;> rfl

/-- After the toggle test RT_TOGGLE is the group's flag (`10_state.md` R28). -/
@[simp] theorem State.toggleChange_rtToggle (s : State) (g : Bool) : (s.toggleChange g).rtToggle = g := by
  unfold State.toggleChange
  split
  · rfl
  · simp_all

/-- With the same flag the toggle test changes nothing (`42_radio_text.md` R142). -/
theorem State.toggleChange_same {s : State} {g : Bool} (h : g = s.rtToggle) : s.toggleChange g = s := by
  simp [State.toggleChange, h]

/-- With another flag the radio-text state is cleared and the flag recorded (`42_radio_text.md` R142). -/
theorem State.toggleChange_changed {s : State} {g : Bool} (h : g ≠ s.rtToggle) :
    s.toggleChange g = { s.rtClear with rtToggle := g } := by
  simp [State.toggleChange, h]

/-! ### fetch -/

@[simp] theorem State.fetch_presentNext (s : State) (t : Transaction) : (s.presentNext t).fetch = (t, s) := rfl

theorem State.fetch_cons {s : State} {t : Transaction} {rest : List Transaction} (h : s.stream = t :: rest) :
    s.fetch = (t, { s with stream := rest }) := by
  simp [State.fetch, h]

theorem State.fetch_nil {s : State} (h : s.stream = []) : s.fetch = (idlePoll, s) := by
  simp [State.fetch, h]

/-- The step takes one transaction off the queue. -/
theorem State.fetch_snd (s : State) : s.fetch.2 = { s with stream := s.stream.tail } := by
  obtain ⟨_, _, _, _, _, _, _, _, _, _, stream, _⟩ := s
  cases stream <;> rfl

end Sys2Proof.Machine
end

