-- ==== Sys2Proof/Laws/Memory.lean ====
section
/-! SUPPORT. The laws of RT_BUF: a read after a write to the same address gives the value written, a write leaves every
other address alone, every operation keeps the canonical form, and canonical memories that read alike are equal. -/
namespace Sys2Proof.Machine

/-! ### One cell -/

theorem Memory.read_erase (blank : Byte) (m : Memory) (a b : Nat) :
    Memory.read blank (Memory.erase m a) b = if b = a then blank else Memory.read blank m b := by
  induction m with
  | nil => simp [Memory.erase, Memory.read]
  | cons c m ih =>
    obtain ⟨k, w⟩ := c
    simp only [Memory.erase] at ih
    by_cases hk : k = a
    · subst hk
      simp only [Memory.erase, List.filter, bne_self_eq_false, ih, Memory.read]
      by_cases hb : b = k
      · simp [hb]
      · simp [hb, Ne.symm hb]
    · have : (k != a) = true := by simp [hk]
      simp only [Memory.erase, List.filter, this, Memory.read, ih]
      by_cases hb : k = b
      · simp [← hb, hk]
      · simp [hb]

theorem Memory.not_mem_erase (m : Memory) (a : Nat) : ∀ c ∈ Memory.erase m a, c.1 ≠ a := by
  intro c hc
  simpa using (List.mem_filter.mp hc).2

theorem Memory.read_insert (blank : Byte) (m : Memory) (a b : Nat) (v : Byte) (h : ∀ c ∈ m, c.1 ≠ a) :
    Memory.read blank (Memory.insert m (a, v)) b = if b = a then v else Memory.read blank m b := by
  induction m with
  | nil => simp [Memory.insert, Memory.read, eq_comm]
  | cons c m ih =>
    obtain ⟨k, w⟩ := c
    have hk : k ≠ a := h (k, w) (by simp)
    have ih := ih fun c hc => h c (by simp [hc])
    simp only [Memory.insert]
    split
    · simp [Memory.read, eq_comm]
    · simp only [Memory.read, ih]
      by_cases hb : k = b
      · simp [← hb, hk]
      · simp [hb]

/-- Read after write: the address written reads as the value, every other address as before. -/
theorem Memory.read_write (blank : Byte) (m : Memory) (a b : Nat) (v : Byte) :
    Memory.read blank (Memory.write blank m a v) b = if b = a then v else Memory.read blank m b := by
  unfold Memory.write
  split
  · next h => simp [Memory.read_erase, h]
  · rw [Memory.read_insert _ _ _ _ _ (Memory.not_mem_erase m a), Memory.read_erase]
    split <;> rfl

/-! ### The canonical form -/

theorem Memory.wf_nil (blank : Byte) : Memory.wf blank [] := by simp [Memory.wf]

theorem Memory.wf_erase {blank : Byte} {m : Memory} (h : Memory.wf blank m) (a : Nat) :
    Memory.wf blank (Memory.erase m a) :=
  ⟨h.1.filter _, fun c hc => h.2 c (List.mem_filter.mp hc).1⟩

theorem Memory.mem_insert {m : Memory} {c d : Host.Cell} : d ∈ Memory.insert m c ↔ d = c ∨ d ∈ m := by
  induction m with
  | nil => simp [Memory.insert]
  | cons e m ih =>
    simp only [Memory.insert]
    split
    · simp
    · simp only [List.mem_cons, ih]
      tauto

theorem Memory.wf_insert {blank : Byte} {m : Memory} (h : Memory.wf blank m) {a : Nat} {v : Byte} (ha : a < 64)
    (hv : v ≠ blank) (hm : ∀ c ∈ m, c.1 ≠ a) : Memory.wf blank (Memory.insert m (a, v)) := by
  refine ⟨?_, fun c hc => ?_⟩
  · have hs := h.1
    clear h
    induction m with
    | nil => simp [Memory.insert]
    | cons d m ih =>
      have hd := List.pairwise_cons.mp hs
      have hda : d.1 ≠ a := hm d (by simp)
      simp only [Memory.insert]
      split
      · next hlt =>
        refine List.pairwise_cons.mpr ⟨fun e he => ?_, hs⟩
        rcases List.mem_cons.mp he with rfl | he
        · exact hlt
        · exact Nat.lt_trans hlt (hd.1 e he)
      · next hge =>
        refine List.pairwise_cons.mpr ⟨fun e he => ?_, ih (fun c hc => hm c (by simp [hc])) hd.2⟩
        rcases Memory.mem_insert.mp he with rfl | he
        · simp only at hge ⊢; omega
        · exact hd.1 e he
  · rcases Memory.mem_insert.mp hc with rfl | hc
    · exact ⟨ha, hv⟩
    · exact h.2 c hc

/-- A write to an existing address keeps the canonical form. -/
theorem Memory.wf_write {blank : Byte} {m : Memory} (h : Memory.wf blank m) {a : Nat} (ha : a < 64) (v : Byte) :
    Memory.wf blank (Memory.write blank m a v) := by
  unfold Memory.write
  split
  · exact Memory.wf_erase h a
  · next hv => exact Memory.wf_insert (Memory.wf_erase h a) ha hv (Memory.not_mem_erase m a)

theorem Memory.read_of_lt {blank : Byte} {m : Memory} {a : Nat} (h : ∀ c ∈ m, a < c.1) :
    Memory.read blank m a = blank := by
  induction m with
  | nil => rfl
  | cons c m ih =>
    have hc : a < c.1 := h c (by simp)
    simp only [Memory.read]
    rw [if_neg (by omega)]
    exact ih fun d hd => h d (by simp [hd])

/-- Canonical memories that read alike are equal data. -/
theorem Memory.ext_of_read {blank : Byte} {m n : Memory} (hm : Memory.wf blank m) (hn : Memory.wf blank n)
    (h : ∀ a, Memory.read blank m a = Memory.read blank n a) : m = n := by
  induction m generalizing n with
  | nil =>
    cases n with
    | nil => rfl
    | cons d n =>
      have := h d.1
      simp only [Memory.read, if_true] at this
      exact absurd this.symm (hn.2 d (by simp)).2
  | cons c m ih =>
    cases n with
    | nil =>
      have := h c.1
      simp only [Memory.read, if_true] at this
      exact absurd this (hm.2 c (by simp)).2
    | cons d n =>
      have hc := List.pairwise_cons.mp hm.1
      have hd := List.pairwise_cons.mp hn.1
      have hkey : c.1 = d.1 := by
        rcases Nat.lt_trichotomy c.1 d.1 with hlt | heq | hgt
        · have := h c.1
          rw [Memory.read_of_lt (m := d :: n)
            (by rintro e he; rcases List.mem_cons.mp he with rfl | he
                · exact hlt
                · exact Nat.lt_trans hlt (hd.1 e he))] at this
          simp only [Memory.read, if_true] at this
          exact absurd this (hm.2 c (by simp)).2
        · exact heq
        · have := h d.1
          rw [Memory.read_of_lt (m := c :: m)
            (by rintro e he; rcases List.mem_cons.mp he with rfl | he
                · exact hgt
                · exact Nat.lt_trans hgt (hc.1 e he))] at this
          simp only [Memory.read, if_true] at this
          exact absurd this.symm (hn.2 d (by simp)).2
      have hval : c.2 = d.2 := by
        have := h c.1
        simpa [Memory.read, hkey] using this
      have hcd : c = d := Prod.ext hkey hval
      subst hcd
      congr 1
      refine ih ⟨hc.2, fun e he => hm.2 e (by simp [he])⟩ ⟨hd.2, fun e he => hn.2 e (by simp [he])⟩ fun a => ?_
      by_cases ha : c.1 = a
      · subst ha
        rw [Memory.read_of_lt hc.1, Memory.read_of_lt hd.1]
      · simpa [Memory.read, ha] using h a

/-! ### Bytes of a state -/

@[simp] theorem State.rtByte_setRtByte (s : State) (a b : Addr) (v : Byte) :
    (s.setRtByte a v).rtByte b = if b = a then v else s.rtByte b := by
  simp [State.rtByte, State.setRtByte, Memory.read_write, BitVec.toNat_inj]

/-- Two states with the same RT_BUF and parameters read alike. -/
theorem State.rtByte_congr {s u : State} (hb : u.rtBuf = s.rtBuf) (hc : u.cfg = s.cfg) (a : Addr) :
    u.rtByte a = s.rtByte a := by
  simp [State.rtByte, hb, hc]

/-- A cleared buffer reads RT_BLANK everywhere (`42_radio_text.md` R141). -/
theorem State.rtByte_of_nil {s : State} (h : s.rtBuf = []) (a : Addr) : s.rtByte a = s.cfg.rtBlank := by
  simp [State.rtByte, h, Memory.read]

@[simp] theorem State.rtByte_rtClear (s : State) (a : Addr) : s.rtClear.rtByte a = s.cfg.rtBlank :=
  State.rtByte_of_nil rfl a

@[simp] theorem State.rtByte_endStep (s : State) (k : StepClass) (c : Option Condition) (p : Option NameBuf)
    (r : Option TextEvent) (a : Addr) : (s.endStep k c p r).rtByte a = s.rtByte a := rfl

@[simp] theorem State.rtByte_quiet (s : State) (k : StepClass) (a : Addr) : (s.quiet k).rtByte a = s.rtByte a := rfl

@[simp] theorem State.rtByte_markSegment (s : State) (g : BitVec 4) (a : Addr) :
    (s.markSegment g).rtByte a = s.rtByte a := rfl

@[simp] theorem State.rtByte_publish (s : State) (a : Addr) : s.publish.rtByte a = s.rtByte a := rfl

/-- The four bytes of a version-A write, and no other, change (`42_radio_text.md` R143). -/
theorem State.rtByte_memWrite_four (s : State) (a b : Addr) (v0 v1 v2 v3 : Byte) :
    (s.memWrite a [v0, v1, v2, v3]).rtByte b =
      if b = a then v0 else if b = a + 1 then v1 else if b = a + 2 then v2 else if b = a + 3 then v3
      else s.rtByte b := by
  have h1 : a + 1 + 1 = a + 2 := by bv_omega
  have h2 : a + 2 + 1 = a + 3 := by bv_omega
  simp only [State.memWrite, State.rtByte_setRtByte, h1, h2]
  by_cases e0 : b = a
  · rw [if_neg (by bv_omega), if_neg (by bv_omega), if_neg (by bv_omega), if_pos e0, if_pos e0]
  · rw [if_neg e0, if_neg e0]
    by_cases e1 : b = a + 1
    · rw [if_neg (by bv_omega), if_neg (by bv_omega), if_pos e1, if_pos e1]
    · rw [if_neg e1, if_neg e1]
      by_cases e2 : b = a + 2
      · rw [if_neg (by bv_omega), if_pos e2, if_pos e2]
      · rw [if_neg e2, if_neg e2]

/-- The two bytes of a version-B write, and no other, change (`42_radio_text.md` R143). -/
theorem State.rtByte_memWrite_two (s : State) (a b : Addr) (v0 v1 : Byte) :
    (s.memWrite a [v0, v1]).rtByte b = if b = a then v0 else if b = a + 1 then v1 else s.rtByte b := by
  simp only [State.memWrite, State.rtByte_setRtByte]
  by_cases e0 : b = a
  · rw [if_neg (by bv_omega), if_pos e0, if_pos e0]
  · rw [if_neg e0, if_neg e0]

/-- The four bytes that a version-A compare reads. -/
theorem State.memRead_four (s : State) (a : Addr) :
    s.memRead a 4 = [s.rtByte a, s.rtByte (a + 1), s.rtByte (a + 2), s.rtByte (a + 3)] := by
  have h1 : a + 1 + 1 = a + 2 := by bv_omega
  have h2 : a + 2 + 1 = a + 3 := by bv_omega
  simp only [State.memRead, h1, h2]

/-- The two bytes that a version-B compare reads. -/
theorem State.memRead_two (s : State) (a : Addr) : s.memRead a 2 = [s.rtByte a, s.rtByte (a + 1)] := rfl

/-- A memory write keeps the canonical form. -/
theorem State.wf_memWrite (vs : List Byte) : ∀ (s : State) (a : Addr), Memory.wf s.cfg.rtBlank s.rtBuf →
    Memory.wf s.cfg.rtBlank (s.memWrite a vs).rtBuf := by
  induction vs with
  | nil => exact fun _ _ h => h
  | cons v vs ih => exact fun s a h => ih (s.setRtByte a v) (a + 1) (Memory.wf_write h a.isLt v)

/-- The toggle test keeps the canonical form. -/
theorem State.wf_toggleChange {s : State} (h : Memory.wf s.cfg.rtBlank s.rtBuf) (g : Bool) :
    Memory.wf s.cfg.rtBlank (s.toggleChange g).rtBuf := by
  unfold State.toggleChange
  split
  · exact Memory.wf_nil _
  · exact h

/-- Character `k` of the whole text is the byte at address `k` (`20_memory.md` R50). -/
theorem State.rtText_get (s : State) (k : Nat) (hk : k < 64) : (s.rtText)[k] = s.rtByte (BitVec.ofNat 6 k) := by
  simp only [State.rtText, Vector.getElem_ofFn]

end Sys2Proof.Machine
end

