-- ==== Sys2Proof/Laws/NameBuf.lean ====
section
/-! SUPPORT. The laws of the service-name buffers. -/
namespace Sys2Proof.Machine

@[simp] theorem nameGet_nameSet (x : NameBuf) (i j : NameIdx) (v : Byte) :
    nameGet (nameSet x i v) j = if j = i then v else nameGet x j := by
  unfold nameGet nameSet
  rw [Vector.getElem_set]
  simp only [BitVec.toNat_inj, eq_comm]

/-- The pair at an offset, and no other register, changes (`10_state.md` R22). -/
theorem nameGet_nameSetPair (x : NameBuf) (off j : NameIdx) (c0 c1 : Byte) :
    nameGet (nameSetPair x off c0 c1) j = if j = off then c0 else if j = off + 1 then c1 else nameGet x j := by
  simp only [nameSetPair, nameGet_nameSet]
  by_cases h : j = off
  · rw [if_neg (by bv_omega), if_pos h, if_pos h]
  · rw [if_neg h, if_neg h]

/-- Two name buffers with the same eight registers are equal. -/
theorem nameBuf_ext {x y : NameBuf} (h : ∀ i, nameGet x i = nameGet y i) : x = y := by
  apply Vector.ext
  intro i hi
  have := h (BitVec.ofNat 3 i)
  simpa [nameGet, Nat.mod_eq_of_lt hi] using this

/-- The matcher compares both characters (`41_service_name.md` R121). -/
theorem pairMatches_iff {x : NameBuf} {off : NameIdx} {c0 c1 : Byte} :
    pairMatches x off c0 c1 = true ↔ nameGet x off = c0 ∧ nameGet x (off + 1) = c1 := by
  simp [pairMatches]

/-- Writing a pair that already stands there changes nothing. -/
theorem nameSetPair_of_matches {x : NameBuf} {off : NameIdx} {c0 c1 : Byte} (h : pairMatches x off c0 c1 = true) :
    nameSetPair x off c0 c1 = x := by
  obtain ⟨h0, h1⟩ := pairMatches_iff.mp h
  refine nameBuf_ext fun i => ?_
  rw [nameGet_nameSetPair]
  split
  · next e => rw [e, h0]
  · split
    · next e => rw [e, h1]
    · rfl

end Sys2Proof.Machine
end

