-- ==== Sys2Proof/Laws/PerInstr.lean ====
section
/-! SUPPORT. Two families of statements about every operation as syntax, one lemma per constructor. -/
namespace Sys2Proof.Laws

/-- The bytes an operation addresses lie inside its buffer (`60_exceptions.md` R193). -/
def IndexInBounds.Statement (i : Instr) : Prop := i.wellFormed = true

/-- The canonical transaction of an operation fits the operation's own row of the table (`30_encoding.md` R81). -/
def EncodedWordFitsRow.Statement (i : Instr) : Prop := i.row.fits (encode i) = true

theorem IndexInBounds.rst : IndexInBounds.Statement .rst := rfl

theorem IndexInBounds.idle : IndexInBounds.Statement .idle := rfl

theorem IndexInBounds.ps0a (seg : BitVec 2) (c0 : Byte) (c1 : Byte) : IndexInBounds.Statement (.ps0a seg c0 c1) := by
  simp only [IndexInBounds.Statement, Instr.wellFormed, decide_eq_true_eq]; omega

theorem IndexInBounds.ps0b (seg : BitVec 2) (c0 : Byte) (c1 : Byte) : IndexInBounds.Statement (.ps0b seg c0 c1) := by
  simp only [IndexInBounds.Statement, Instr.wellFormed, decide_eq_true_eq]; omega

theorem IndexInBounds.rt2a (tog : Bool) (seg : BitVec 4) (c0 : Byte) (c1 : Byte) (c2 : Byte) (c3 : Byte) : IndexInBounds.Statement (.rt2a tog seg c0 c1 c2 c3) := by
  simp only [IndexInBounds.Statement, Instr.wellFormed, decide_eq_true_eq]; omega

theorem IndexInBounds.rt2b (tog : Bool) (seg : BitVec 4) (c0 : Byte) (c1 : Byte) : IndexInBounds.Statement (.rt2b tog seg c0 c1) := by
  simp only [IndexInBounds.Statement, Instr.wellFormed, decide_eq_true_eq]; omega

theorem IndexInBounds.ign1a : IndexInBounds.Statement .ign1a := rfl

theorem IndexInBounds.ign1b : IndexInBounds.Statement .ign1b := rfl

theorem IndexInBounds.ign3a : IndexInBounds.Statement .ign3a := rfl

theorem IndexInBounds.ign3b : IndexInBounds.Statement .ign3b := rfl

theorem IndexInBounds.ign4a : IndexInBounds.Statement .ign4a := rfl

theorem IndexInBounds.ign4b : IndexInBounds.Statement .ign4b := rfl

theorem IndexInBounds.ign5a : IndexInBounds.Statement .ign5a := rfl

theorem IndexInBounds.ign5b : IndexInBounds.Statement .ign5b := rfl

theorem IndexInBounds.ign6a : IndexInBounds.Statement .ign6a := rfl

theorem IndexInBounds.ign6b : IndexInBounds.Statement .ign6b := rfl

theorem IndexInBounds.ign7a : IndexInBounds.Statement .ign7a := rfl

theorem IndexInBounds.ign7b : IndexInBounds.Statement .ign7b := rfl

theorem IndexInBounds.ign8a : IndexInBounds.Statement .ign8a := rfl

theorem IndexInBounds.ign8b : IndexInBounds.Statement .ign8b := rfl

theorem IndexInBounds.ign9a : IndexInBounds.Statement .ign9a := rfl

theorem IndexInBounds.ign9b : IndexInBounds.Statement .ign9b := rfl

theorem IndexInBounds.ign10a : IndexInBounds.Statement .ign10a := rfl

theorem IndexInBounds.ign10b : IndexInBounds.Statement .ign10b := rfl

theorem IndexInBounds.ign11a : IndexInBounds.Statement .ign11a := rfl

theorem IndexInBounds.ign11b : IndexInBounds.Statement .ign11b := rfl

theorem IndexInBounds.ign12a : IndexInBounds.Statement .ign12a := rfl

theorem IndexInBounds.ign12b : IndexInBounds.Statement .ign12b := rfl

theorem IndexInBounds.ign13a : IndexInBounds.Statement .ign13a := rfl

theorem IndexInBounds.ign13b : IndexInBounds.Statement .ign13b := rfl

theorem IndexInBounds.ign14a : IndexInBounds.Statement .ign14a := rfl

theorem IndexInBounds.ign14b : IndexInBounds.Statement .ign14b := rfl

theorem IndexInBounds.ign15a : IndexInBounds.Statement .ign15a := rfl

theorem IndexInBounds.ign15b : IndexInBounds.Statement .ign15b := rfl

theorem EncodedWordFitsRow.rst : EncodedWordFitsRow.Statement .rst :=
  rfl

theorem EncodedWordFitsRow.idle : EncodedWordFitsRow.Statement .idle :=
  rfl

theorem EncodedWordFitsRow.ps0a (seg : BitVec 2) (c0 : Byte) (c1 : Byte) : EncodedWordFitsRow.Statement (.ps0a seg c0 c1) :=
  beq_iff_eq.mpr (opWord_readyGroup_ps .a seg _)

theorem EncodedWordFitsRow.ps0b (seg : BitVec 2) (c0 : Byte) (c1 : Byte) : EncodedWordFitsRow.Statement (.ps0b seg c0 c1) :=
  beq_iff_eq.mpr (opWord_readyGroup_ps .b seg _)

theorem EncodedWordFitsRow.rt2a (tog : Bool) (seg : BitVec 4) (c0 : Byte) (c1 : Byte) (c2 : Byte) (c3 : Byte) : EncodedWordFitsRow.Statement (.rt2a tog seg c0 c1 c2 c3) :=
  beq_iff_eq.mpr (opWord_readyGroup_rt .a tog seg _ _)

theorem EncodedWordFitsRow.rt2b (tog : Bool) (seg : BitVec 4) (c0 : Byte) (c1 : Byte) : EncodedWordFitsRow.Statement (.rt2b tog seg c0 c1) :=
  beq_iff_eq.mpr (opWord_readyGroup_rt .b tog seg _ _)

theorem EncodedWordFitsRow.ign1a : EncodedWordFitsRow.Statement .ign1a :=
  rfl

theorem EncodedWordFitsRow.ign1b : EncodedWordFitsRow.Statement .ign1b :=
  rfl

theorem EncodedWordFitsRow.ign3a : EncodedWordFitsRow.Statement .ign3a :=
  rfl

theorem EncodedWordFitsRow.ign3b : EncodedWordFitsRow.Statement .ign3b :=
  rfl

theorem EncodedWordFitsRow.ign4a : EncodedWordFitsRow.Statement .ign4a :=
  rfl

theorem EncodedWordFitsRow.ign4b : EncodedWordFitsRow.Statement .ign4b :=
  rfl

theorem EncodedWordFitsRow.ign5a : EncodedWordFitsRow.Statement .ign5a :=
  rfl

theorem EncodedWordFitsRow.ign5b : EncodedWordFitsRow.Statement .ign5b :=
  rfl

theorem EncodedWordFitsRow.ign6a : EncodedWordFitsRow.Statement .ign6a :=
  rfl

theorem EncodedWordFitsRow.ign6b : EncodedWordFitsRow.Statement .ign6b :=
  rfl

theorem EncodedWordFitsRow.ign7a : EncodedWordFitsRow.Statement .ign7a :=
  rfl

theorem EncodedWordFitsRow.ign7b : EncodedWordFitsRow.Statement .ign7b :=
  rfl

theorem EncodedWordFitsRow.ign8a : EncodedWordFitsRow.Statement .ign8a :=
  rfl

theorem EncodedWordFitsRow.ign8b : EncodedWordFitsRow.Statement .ign8b :=
  rfl

theorem EncodedWordFitsRow.ign9a : EncodedWordFitsRow.Statement .ign9a :=
  rfl

theorem EncodedWordFitsRow.ign9b : EncodedWordFitsRow.Statement .ign9b :=
  rfl

theorem EncodedWordFitsRow.ign10a : EncodedWordFitsRow.Statement .ign10a :=
  rfl

theorem EncodedWordFitsRow.ign10b : EncodedWordFitsRow.Statement .ign10b :=
  rfl

theorem EncodedWordFitsRow.ign11a : EncodedWordFitsRow.Statement .ign11a :=
  rfl

theorem EncodedWordFitsRow.ign11b : EncodedWordFitsRow.Statement .ign11b :=
  rfl

theorem EncodedWordFitsRow.ign12a : EncodedWordFitsRow.Statement .ign12a :=
  rfl

theorem EncodedWordFitsRow.ign12b : EncodedWordFitsRow.Statement .ign12b :=
  rfl

theorem EncodedWordFitsRow.ign13a : EncodedWordFitsRow.Statement .ign13a :=
  rfl

theorem EncodedWordFitsRow.ign13b : EncodedWordFitsRow.Statement .ign13b :=
  rfl

theorem EncodedWordFitsRow.ign14a : EncodedWordFitsRow.Statement .ign14a :=
  rfl

theorem EncodedWordFitsRow.ign14b : EncodedWordFitsRow.Statement .ign14b :=
  rfl

theorem EncodedWordFitsRow.ign15a : EncodedWordFitsRow.Statement .ign15a :=
  rfl

theorem EncodedWordFitsRow.ign15b : EncodedWordFitsRow.Statement .ign15b :=
  rfl

end Sys2Proof.Laws
end

