-- ==== Sys2Proof/Laws/RadioText.lean ====
section
/-! SUPPORT. Everything a radio-text observation can do (`42_radio_text.md` R140 to R148). -/
namespace Sys2Proof.Machine

theorem rtAddr_a_toNat (seg : BitVec 4) : (rtAddr .a seg).toNat = 4 * seg.toNat := by
  revert seg; decide

theorem rtAddr_b_toNat (seg : BitVec 4) : (rtAddr .b seg).toNat = 2 * seg.toNat := by
  revert seg; decide

/-- Neither target is a single presence bit (R148: a toggle change never ends a sweep). -/
theorem segBit_ne_target (ver : Version) (seg : BitVec 4) : segBit seg ≠ rtTarget ver := by
  cases ver <;> revert seg <;> decide

/-- Presence bit `i` is set in `1 << seg` only for `i = seg`. -/
theorem getLsbD_segBit (seg : BitVec 4) (i : Nat) : (segBit seg).getLsbD i = decide (i = seg.toNat) := by
  have hs := seg.isLt
  simp only [segBit, BitVec.getLsbD_shiftLeft, BitVec.getLsbD_one]
  grind

/-- The completion test and its two ends (R145 to R147). -/
theorem State.completeSweep_eq (s : State) (ver : Version) :
    s.completeSweep ver =
      if s.rtBitmap = rtTarget ver then
        match s.rtPass with
        | .first => { s with rtBitmap := 0, rtPass := .verify }.quiet .rt
        | .verify => { s with rtBitmap := 0, rtPass := .first }.endStep .rt none none (some s.rtEventValue)
      else s.quiet .rt := by
  unfold State.completeSweep
  by_cases h : s.rtBitmap = rtTarget ver
  · have hb : (s.rtBitmap == rtTarget ver) = true := beq_iff_eq.mpr h
    refine (if_pos hb).trans (Eq.trans ?_ (if_pos h).symm)
    cases s.rtPass <;> rfl
  · simp [h]

/-- A toggle change (R142, row 3 of R148): the state is cleared and the group's segment is the first of a new sweep. -/
theorem radioTextObserve_toggle {ver : Version} {seg : BitVec 4} {tog : Bool} {chars : List Byte} {s : State}
    (h : tog ≠ s.rtToggle) :
    radioTextObserve ver seg tog chars s =
      (({ s.rtClear with rtToggle := tog }.memWrite (rtAddr ver seg) chars).markSegment seg).quiet .rt := by
  unfold radioTextObserve
  rw [State.toggleChange_changed h]
  simp only [State.rtClear_rtPass, State.completeSweep_eq, State.markSegment_rtBitmap, State.memWrite_rtBitmap,
    State.rtClear_rtBitmap]
  rw [if_neg (by simpa using segBit_ne_target ver seg)]

/-- A group of the first sweep (R143, rows 1 and 2 of R148). -/
theorem radioTextObserve_first {ver : Version} {seg : BitVec 4} {tog : Bool} {chars : List Byte} {s : State}
    (h : tog = s.rtToggle) (hp : s.rtPass = .first) :
    radioTextObserve ver seg tog chars s =
      if s.rtBitmap ||| segBit seg = rtTarget ver then
        { s.memWrite (rtAddr ver seg) chars with rtBitmap := 0, rtPass := .verify }.quiet .rt
      else ((s.memWrite (rtAddr ver seg) chars).markSegment seg).quiet .rt := by
  unfold radioTextObserve
  rw [State.toggleChange_same h]
  simp only [hp, State.completeSweep_eq, State.markSegment_rtBitmap, State.memWrite_rtBitmap,
    State.markSegment_rtPass, State.memWrite_rtPass]
  rfl

/-- A matching group of the verification sweep (R144, rows 4 and 5 of R148). -/
theorem radioTextObserve_match {ver : Version} {seg : BitVec 4} {tog : Bool} {chars : List Byte} {s : State}
    (h : tog = s.rtToggle) (hp : s.rtPass = .verify) (hm : s.memRead (rtAddr ver seg) (segWidth ver) = chars) :
    radioTextObserve ver seg tog chars s =
      if s.rtBitmap ||| segBit seg = rtTarget ver then
        { s with rtBitmap := 0, rtPass := .first }.endStep .rt none none (some s.rtEventValue)
      else (s.markSegment seg).quiet .rt := by
  unfold radioTextObserve
  rw [State.toggleChange_same h]
  simp only [hp, hm, beq_self_eq_true, if_true, State.completeSweep_eq, State.markSegment_rtBitmap,
    State.markSegment_rtPass]
  rfl

/-- A differing group of the verification sweep (R144, R192, row 6 of R148). -/
theorem radioTextObserve_mismatch {ver : Version} {seg : BitVec 4} {tog : Bool} {chars : List Byte} {s : State}
    (h : tog = s.rtToggle) (hp : s.rtPass = .verify) (hm : s.memRead (rtAddr ver seg) (segWidth ver) ≠ chars) :
    radioTextObserve ver seg tog chars s = s.takeVerificationMismatch := by
  unfold radioTextObserve
  rw [State.toggleChange_same h]
  simp only [hp, beq_iff_eq, if_neg hm]

/-- Every observation is one of these four: toggle change, first sweep, match, mismatch (R148). -/
theorem radioText_kinds (ver : Version) (seg : BitVec 4) (tog : Bool) (chars : List Byte) (s : State) :
    tog ≠ s.rtToggle ∨ (tog = s.rtToggle ∧ s.rtPass = .first) ∨
    (tog = s.rtToggle ∧ s.rtPass = .verify ∧ s.memRead (rtAddr ver seg) (segWidth ver) = chars) ∨
    (tog = s.rtToggle ∧ s.rtPass = .verify ∧ s.memRead (rtAddr ver seg) (segWidth ver) ≠ chars) := by
  by_cases ht : tog = s.rtToggle
  · cases hp : s.rtPass
    · exact .inr (.inl ⟨ht, rfl⟩)
    · exact .inr (.inr ((em _).imp (fun h => ⟨ht, rfl, h⟩) fun h => ⟨ht, rfl, h⟩))
  · exact .inl ht

/-- An observation leaves the service-name state, the input and the parameters alone, publishes nothing, is a step of
class RT, and leaves the group's flag in RT_TOGGLE (`40_classifier.md` R104, `10_state.md` R28). -/
theorem radioTextObserve_frame (ver : Version) (seg : BitVec 4) (tog : Bool) (chars : List Byte) (s : State) :
    let u := radioTextObserve ver seg tog chars s
    u.psCand = s.psCand ∧ u.psConf = s.psConf ∧ u.psPub = s.psPub ∧ u.psEvent = none ∧ u.label.cls = .rt ∧
    u.rtToggle = tog ∧ u.stream = s.stream ∧ u.cfg = s.cfg := by
  rcases radioText_kinds ver seg tog chars s with h | ⟨h, hp⟩ | ⟨h, hp, hm⟩ | ⟨h, hp, hm⟩
  · simp [radioTextObserve_toggle h]
  · rw [radioTextObserve_first h hp]; split <;> simp [h]
  · rw [radioTextObserve_match h hp hm]; split <;> simp [h]
  · rw [radioTextObserve_mismatch h hp hm]; simp [h]

/-- An observation keeps RT_BUF in canonical form. -/
theorem radioTextObserve_wf (ver : Version) (seg : BitVec 4) (tog : Bool) (chars : List Byte) {s : State}
    (hw : Memory.wf s.cfg.rtBlank s.rtBuf) :
    Memory.wf s.cfg.rtBlank (radioTextObserve ver seg tog chars s).rtBuf := by
  rcases radioText_kinds ver seg tog chars s with h | ⟨h, hp⟩ | ⟨h, hp, hm⟩ | ⟨h, hp, hm⟩
  · rw [radioTextObserve_toggle h]
    exact State.wf_memWrite chars { s.rtClear with rtToggle := tog } _ (Memory.wf_nil _)
  · rw [radioTextObserve_first h hp]
    split
    · exact State.wf_memWrite chars s _ hw
    · exact State.wf_memWrite chars s _ hw
  · rw [radioTextObserve_match h hp hm]; split <;> exact hw
  · rw [radioTextObserve_mismatch h hp hm]; exact Memory.wf_nil _

/-- A text is emitted only at the end of a verification sweep that matched throughout (R147). -/
theorem radioTextObserve_emits {ver : Version} {seg : BitVec 4} {tog : Bool} {chars : List Byte} {s : State}
    {x : TextEvent} (he : (radioTextObserve ver seg tog chars s).rtEvent = some x) :
    tog = s.rtToggle ∧ s.rtPass = .verify ∧ s.memRead (rtAddr ver seg) (segWidth ver) = chars ∧
    s.rtBitmap ||| segBit seg = rtTarget ver ∧ x = s.rtEventValue ∧
    radioTextObserve ver seg tog chars s =
      { s with rtBitmap := 0, rtPass := .first }.endStep .rt none none (some s.rtEventValue) := by
  rcases radioText_kinds ver seg tog chars s with h | ⟨h, hp⟩ | ⟨h, hp, hm⟩ | ⟨h, hp, hm⟩
  · simp [radioTextObserve_toggle h] at he
  · rw [radioTextObserve_first h hp] at he; split at he <;> simp at he
  · have e := radioTextObserve_match h hp hm
    split at e
    · next ht =>
      rw [e] at he
      exact ⟨h, hp, hm, ht, by simpa [eq_comm] using he, e⟩
    · simp [e] at he
  · simp [radioTextObserve_mismatch h hp hm] at he

end Sys2Proof.Machine
end

