-- ==== Sys2Proof/Laws/ServiceName.lean ====
section
/-! SUPPORT. Everything a service-name observation can do (`41_service_name.md` R120 to R123). -/
namespace Sys2Proof.Machine

@[simp] theorem psOffset_three : psOffset 3 = 6 := by decide

theorem psOffset_toNat (seg : BitVec 2) : (psOffset seg).toNat = 2 * seg.toNat := by
  revert seg; decide

/-- Offsets of different segments address different pairs. -/
theorem psOffset_inj {p q : BitVec 2} (h : psOffset p = psOffset q) : p = q := by
  revert p q; decide

theorem psOffset_ne_succ (p q : BitVec 2) : psOffset p ≠ psOffset q + 1 := by
  revert p q; decide

/-- Every offset is the first or the second of its segment's pair. -/
theorem nameIdx_cases (i : NameIdx) : ∃ seg : BitVec 2, i = psOffset seg ∨ i = psOffset seg + 1 := by
  revert i; decide

theorem State.publishTest_iff {s : State} {seg : BitVec 2} :
    s.publishTest seg = true ↔ seg = 3 ∧ s.psConf = s.psCand ∧ s.psConf ≠ s.psPub := by
  simp [State.publishTest, psLastSeg, and_assoc]

/-- The three outcomes of an observation: mismatch (R122); match without publish, and match with publish (R121,
R123). -/
theorem serviceNameObserve_cases (seg : BitVec 2) (c0 c1 : Byte) (s : State) :
    (pairMatches s.psCand (psOffset seg) c0 c1 = false ∧
      serviceNameObserve seg c0 c1 s =
        { s with psCand := nameSetPair s.psCand (psOffset seg) c0 c1 }.quiet .ps) ∨
    (pairMatches s.psCand (psOffset seg) c0 c1 = true ∧
      ¬ (seg = 3 ∧ nameSetPair s.psConf (psOffset seg) c0 c1 = s.psCand ∧
        nameSetPair s.psConf (psOffset seg) c0 c1 ≠ s.psPub) ∧
      serviceNameObserve seg c0 c1 s =
        { s with psConf := nameSetPair s.psConf (psOffset seg) c0 c1 }.quiet .ps) ∨
    (pairMatches s.psCand (psOffset seg) c0 c1 = true ∧ seg = 3 ∧
      nameSetPair s.psConf (psOffset seg) c0 c1 = s.psCand ∧ s.psCand ≠ s.psPub ∧
      serviceNameObserve seg c0 c1 s =
        { s with psConf := s.psCand, psPub := s.psCand }.endStep .ps none (some s.psCand) none) := by
  unfold serviceNameObserve
  cases hm : pairMatches s.psCand (psOffset seg) c0 c1
  · exact .inl ⟨rfl, rfl⟩
  · by_cases ht : seg = 3 ∧ nameSetPair s.psConf (psOffset seg) c0 c1 = s.psCand ∧
        nameSetPair s.psConf (psOffset seg) c0 c1 ≠ s.psPub
    · refine .inr (.inr ⟨rfl, ht.1, ht.2.1, ht.2.1 ▸ ht.2.2, ?_⟩)
      have hp := State.publishTest_iff (s := { s with psConf := nameSetPair s.psConf (psOffset seg) c0 c1 })
        (seg := seg) |>.mpr ht
      simp only [State.confirmPair, hp, if_true]
      simp only [State.publish, ht.2.1]
    · refine .inr (.inl ⟨rfl, ht, ?_⟩)
      have hp : ¬ _ := mt (State.publishTest_iff
        (s := { s with psConf := nameSetPair s.psConf (psOffset seg) c0 c1 }) (seg := seg)).mp ht
      simp only [State.confirmPair, hp, if_true, if_false]

/-- An observation leaves the radio-text state, the input and the parameters alone, emits no text, and is a step of
class PS without condition (`40_classifier.md` R104, `41_service_name.md` R124). -/
theorem serviceNameObserve_frame (seg : BitVec 2) (c0 c1 : Byte) (s : State) :
    let u := serviceNameObserve seg c0 c1 s
    u.rtBuf = s.rtBuf ∧ u.rtBitmap = s.rtBitmap ∧ u.rtPass = s.rtPass ∧ u.rtToggle = s.rtToggle ∧
    u.rtEvent = none ∧ u.label = ⟨.ps, none⟩ ∧ u.stream = s.stream ∧ u.cfg = s.cfg := by
  rcases serviceNameObserve_cases seg c0 c1 s with ⟨_, h⟩ | ⟨_, _, h⟩ | ⟨_, _, _, _, h⟩ <;>
    simp [h]

theorem serviceNameObserve_sameText (seg : BitVec 2) (c0 c1 : Byte) (s : State) :
    s.SameText (serviceNameObserve seg c0 c1 s) := by
  obtain ⟨hb, hm, hp, ht, _, _, _, hc⟩ := serviceNameObserve_frame seg c0 c1 s
  exact ⟨fun a => State.rtByte_congr hb hc a, hm, hp, ht⟩

end Sys2Proof.Machine
end

