-- ==== Sys2Proof/Laws/Step.lean ====
section
/-! SUPPORT. What one operation and one step can do, said once: the next state, by class. -/
namespace Sys2Proof.Machine

/-- The next state of every operation, by class: `exec` never faults and never refuses (`00_scope.md` R9). -/
theorem exec_cases (i : Instr) (s : State) :
    (i = .rst ∧ exec i s = .next (s.resetRegisters.quiet .rst)) ∨
    (i = .idle ∧ exec i s = .next (s.quiet .idle)) ∨
    (∃ seg c0 c1, (i = .ps0a seg c0 c1 ∨ i = .ps0b seg c0 c1) ∧
      exec i s = .next (serviceNameObserve seg c0 c1 s)) ∨
    (∃ tog seg c0 c1 c2 c3, i = .rt2a tog seg c0 c1 c2 c3 ∧
      exec i s = .next (radioTextObserve .a seg tog [c0, c1, c2, c3] s)) ∨
    (∃ tog seg c0 c1, i = .rt2b tog seg c0 c1 ∧
      exec i s = .next (radioTextObserve .b seg tog [c0, c1] s)) ∨
    (i ∈ Instr.ignoredOps ∧ exec i s = .next s.takeIgnoredInput) := by
  cases i with
  | rst => exact .inl ⟨rfl, rfl⟩
  | idle => exact .inr (.inl ⟨rfl, rfl⟩)
  | ps0a seg c0 c1 => exact .inr (.inr (.inl ⟨seg, c0, c1, .inl rfl, rfl⟩))
  | ps0b seg c0 c1 => exact .inr (.inr (.inl ⟨seg, c0, c1, .inr rfl, rfl⟩))
  | rt2a tog seg c0 c1 c2 c3 => exact .inr (.inr (.inr (.inl ⟨tog, seg, c0, c1, c2, c3, rfl, rfl⟩)))
  | rt2b tog seg c0 c1 => exact .inr (.inr (.inr (.inr (.inl ⟨tog, seg, c0, c1, rfl, rfl⟩))))
  | _ => exact .inr (.inr (.inr (.inr (.inr ⟨by decide, rfl⟩))))

/-- An ignored operation changes nothing but the outputs and the label (`43_ignored_groups.md` R170). -/
theorem exec_ignored {i : Instr} (h : i ∈ Instr.ignoredOps) (s : State) : exec i s = .next s.takeIgnoredInput := by
  rcases exec_cases i s with ⟨rfl, _⟩ | ⟨rfl, _⟩ | ⟨_, _, _, rfl | rfl, _⟩ | ⟨_, _, _, _, _, _, rfl, _⟩ |
    ⟨_, _, _, _, rfl, _⟩ | ⟨_, e⟩
  · exact absurd h (by decide)
  · exact absurd h (by decide)
  · simp [Instr.ignoredOps] at h
  · simp [Instr.ignoredOps] at h
  · simp [Instr.ignoredOps] at h
  · simp [Instr.ignoredOps] at h
  · exact e

/-- Every operation answers a next state with the same input still to come and the same parameters. -/
theorem exec_next (i : Instr) (s : State) : ∃ u, exec i s = .next u ∧ u.stream = s.stream ∧ u.cfg = s.cfg := by
  rcases exec_cases i s with ⟨_, e⟩ | ⟨_, e⟩ | ⟨seg, c0, c1, _, e⟩ | ⟨tog, seg, c0, c1, c2, c3, _, e⟩ |
    ⟨tog, seg, c0, c1, _, e⟩ | ⟨_, e⟩
  · exact ⟨_, e, rfl, rfl⟩
  · exact ⟨_, e, rfl, rfl⟩
  · have f := serviceNameObserve_frame seg c0 c1 s
    exact ⟨_, e, f.2.2.2.2.2.2.1, f.2.2.2.2.2.2.2⟩
  · have f := radioTextObserve_frame .a seg tog [c0, c1, c2, c3] s
    exact ⟨_, e, f.2.2.2.2.2.2.1, f.2.2.2.2.2.2.2⟩
  · have f := radioTextObserve_frame .b seg tog [c0, c1] s
    exact ⟨_, e, f.2.2.2.2.2.2.1, f.2.2.2.2.2.2.2⟩
  · exact ⟨_, e, rfl, rfl⟩

@[simp] theorem step_presentNext (s : State) (t : Transaction) : step (s.presentNext t) = exec (decode t) s := rfl

theorem step_cons {s : State} {t : Transaction} {rest : List Transaction} (h : s.stream = t :: rest) :
    step s = exec (decode t) { s with stream := rest } := by
  simp [step, State.fetch_cons h]

theorem step_nil {s : State} (h : s.stream = []) : step s = .next (s.quiet .idle) := by
  simp only [step, State.fetch_nil h]
  rfl

/-- A step is one operation on the state without its oldest transaction. -/
theorem step_eq_exec (s : State) : ∃ i, step s = exec i { s with stream := s.stream.tail } :=
  ⟨decode s.fetch.1, by rw [step, State.fetch_snd]⟩

end Sys2Proof.Machine
end

