-- ==== Sys2Proof/Laws/Trace.lean ====
section
/-! SUPPORT. One step of a run, said once: what the run and its two traces gain by a step, and which operations leave
one assembler alone. -/
namespace Sys2Proof.Machine

theorem run_succ {s u : State} {n : Nat} (h : step s = .next u) :
    Host.Core.run Sys2Proof.core (n + 1) s = Host.Core.run Sys2Proof.core n u := by
  have h' : Sys2Proof.core.step s = .next u := h
  exact (Host.Core.run.eq_2 Sys2Proof.core s n).trans (by rw [h'])

theorem rtTrace_succ {s u : State} {n : Nat} (h : step s = .next u) :
    rtTrace (n + 1) s = u.rtEvent.toList ++ rtTrace n u := by
  rw [rtTrace, h]

theorem psTrace_succ {s u : State} {n : Nat} (h : step s = .next u) :
    psTrace (n + 1) s = u.psEvent.toList ++ psTrace n u := by
  rw [psTrace, h]

/-- When the operations still to come are known, the next step runs the first of them. -/
theorem step_of_take_decode {s : State} {n : Nat} {i : Instr} {l : List Instr}
    (h : (s.stream.take (n + 1)).map decode = i :: l) :
    ∃ rest, step s = exec i { s with stream := rest } ∧ (rest.take n).map decode = l := by
  cases hs : s.stream with
  | nil => simp [hs] at h
  | cons t rest =>
    simp only [hs, List.take_succ_cons, List.map_cons, List.cons.injEq] at h
    exact ⟨rest, by rw [step_cons hs, h.1], h.2⟩

/-- An operation that is neither radio text nor RST leaves the radio-text registers alone and emits no text
(`40_classifier.md` R104). -/
theorem exec_keeps_text {i : Instr} (h1 : classOf i ≠ .rt) (h2 : classOf i ≠ .rst) (s : State) :
    ∃ u, exec i s = .next u ∧ u.rtBuf = s.rtBuf ∧ u.rtBitmap = s.rtBitmap ∧ u.rtPass = s.rtPass ∧
      u.rtToggle = s.rtToggle ∧ u.rtEvent = none ∧ u.stream = s.stream ∧ u.cfg = s.cfg := by
  cases i with
  | rst => exact absurd rfl h2
  | rt2a => exact absurd rfl h1
  | rt2b => exact absurd rfl h1
  | ps0a seg c0 c1 =>
    obtain ⟨a, b, c, d, e, _, f, g⟩ := serviceNameObserve_frame seg c0 c1 s
    exact ⟨_, rfl, a, b, c, d, e, f, g⟩
  | ps0b seg c0 c1 =>
    obtain ⟨a, b, c, d, e, _, f, g⟩ := serviceNameObserve_frame seg c0 c1 s
    exact ⟨_, rfl, a, b, c, d, e, f, g⟩
  | _ => exact ⟨_, rfl, rfl, rfl, rfl, rfl, rfl, rfl, rfl⟩

/-- An operation that is neither service name nor RST leaves the service-name registers alone and publishes nothing
(`40_classifier.md` R104). -/
theorem exec_keeps_name {i : Instr} (h1 : classOf i ≠ .ps) (h2 : classOf i ≠ .rst) (s : State) :
    ∃ u, exec i s = .next u ∧ u.psCand = s.psCand ∧ u.psConf = s.psConf ∧ u.psPub = s.psPub ∧ u.psEvent = none ∧
      u.stream = s.stream ∧ u.cfg = s.cfg := by
  cases i with
  | rst => exact absurd rfl h2
  | ps0a => exact absurd rfl h1
  | ps0b => exact absurd rfl h1
  | rt2a tog seg c0 c1 c2 c3 =>
    obtain ⟨a, b, c, d, _, _, e, f⟩ := radioTextObserve_frame .a seg tog [c0, c1, c2, c3] s
    exact ⟨_, rfl, a, b, c, d, e, f⟩
  | rt2b tog seg c0 c1 =>
    obtain ⟨a, b, c, d, _, _, e, f⟩ := radioTextObserve_frame .b seg tog [c0, c1] s
    exact ⟨_, rfl, a, b, c, d, e, f⟩
  | _ => exact ⟨_, rfl, rfl, rfl, rfl, rfl, rfl, rfl⟩

/-! ### Presence bits and finished sweeps -/

/-- Sixteen different segment indices are all of them. -/
theorem mem_of_sixteen {l : List (BitVec 4)} (hn : l.Nodup) (hl : l.length = 16) (i : BitVec 4) : i ∈ l := by
  have hc : l.toFinset.card = Fintype.card (BitVec 4) := by
    rw [List.toFinset_card_of_nodup hn, hl]; rfl
  have e : l.toFinset = Finset.univ := (Finset.card_eq_iff_eq_univ _).mp hc
  exact List.mem_toFinset.mp (e ▸ Finset.mem_univ i)

/-- The bitmap reaches the version-A target with segment `seg` exactly when, with it, all 16 bits are set. -/
theorem bitmap_full_iff (m : BitVec 16) (seg : BitVec 4) :
    m ||| segBit seg = rtTarget .a ↔ ∀ i : BitVec 4, i = seg ∨ m.getLsbD i.toNat = true := by
  constructor
  · intro e i
    have hb : (m ||| segBit seg).getLsbD i.toNat = true := by rw [e]; revert i; decide
    rw [BitVec.getLsbD_or, getLsbD_segBit, Bool.or_eq_true] at hb
    exact hb.symm.imp (fun h => BitVec.eq_of_toNat_eq (of_decide_eq_true h)) id
  · intro h
    apply BitVec.eq_of_getLsbD_eq
    intro i hi
    have ht : (rtTarget .a).getLsbD i = true := by clear h; revert i; decide
    have e : (BitVec.ofNat 4 i).toNat = i := by simp [Nat.mod_eq_of_lt hi]
    rw [ht, BitVec.getLsbD_or, getLsbD_segBit, Bool.or_eq_true]
    refine (h (BitVec.ofNat 4 i)).symm.imp (fun h => by rwa [e] at h) fun h => ?_
    rw [← h, e]; exact decide_eq_true rfl

end Sys2Proof.Machine
end

