-- ==== Sys2Proof/Tests/Slice0.lean ====
section
/-! SUPPORT. The model's own tests: the checks of WellFormed on ill-formed terms, words written out from the spec's
encodings, one-step results from the spec's worked examples and vectors (`95_test_vectors.md`, V<n>), and a witness for
the hypotheses of each obligation. -/
namespace Sys2Proof.Tests
open Sys2Proof Sys2Proof.Machine

/-! ### Helpers -/

/-- The next state of an outcome. -/
def nextOf : Host.Outcome State Fault Refusal → Option State
  | .next u => some u
  | .fault _ => none
  | .refused _ => none

/-- The state after one step on the given group, taken with `rst = 0, ready = 1`. -/
def onGroup (s : State) (a b c d : Word) : Option State :=
  nextOf (step (s.presentNext ⟨false, true, a, b, c, d⟩))

/-- "ABCDEFGH". -/
def abc : NameBuf := #v[0x41, 0x42, 0x43, 0x44, 0x45, 0x46, 0x47, 0x48]

/-- The end state of V1. -/
def named : State := { State.reset with psCand := abc, psConf := abc, psPub := abc }

/-- After one sighting of "GH" from reset (step 1 of V3). -/
def seenGH : State := { State.reset with psCand := #v[0, 0, 0, 0, 0, 0, 0x47, 0x48] }

/-- The state of V14: V1's end state with the radio text of V18. -/
def busy : State :=
  { named with rtBuf := [(0, 0x48), (1, 0x65), (2, 0x6C), (3, 0x6C)], rtBitmap := 0x0001 }

/-- A verification sweep of a blank text with one version-A segment missing. -/
def almostA : State := { State.reset with rtPass := .verify, rtBitmap := 0x7FFF }

/-- A verification sweep of a blank text with one version-B segment missing. -/
def almostB : State := { State.reset with rtPass := .verify, rtBitmap := 0x007F }

/-! ### WellFormed: every check refuses an ill-formed transaction

`Instr.wellFormed` has no ill-formed term to refuse: the operands have their fields' widths. Its bounds are met with
equality at the last segments. -/

theorem test_wellformed_last_segments :
    (Instr.ps0a 3 0 0).wellFormed = true ∧ (Instr.ps0b 3 0 0).wellFormed = true ∧
    (Instr.rt2a true 15 0 0 0 0).wellFormed = true ∧ (Instr.rt2b true 15 0 0).wellFormed = true := by decide

theorem test_noncanonical_rst :
    Transaction.canonical ⟨true, true, 0, 0, 0, 0⟩ = false ∧ Transaction.canonical ⟨true, false, 1, 0, 0, 0⟩ = false ∧
    Transaction.canonical ⟨true, false, 0, 1, 0, 0⟩ = false ∧ Transaction.canonical ⟨true, false, 0, 0, 1, 0⟩ = false ∧
    Transaction.canonical ⟨true, false, 0, 0, 0, 1⟩ = false := by decide

theorem test_noncanonical_idle :
    Transaction.canonical ⟨false, false, 1, 0, 0, 0⟩ = false ∧ Transaction.canonical ⟨false, false, 0, 1, 0, 0⟩ = false ∧
    Transaction.canonical ⟨false, false, 0, 0, 1, 0⟩ = false ∧
    Transaction.canonical ⟨false, false, 0, 0, 0, 1⟩ = false := by decide

theorem test_noncanonical_ps :
    Transaction.canonical ⟨false, true, 1, 0x0003, 0, 0⟩ = false ∧
    Transaction.canonical ⟨false, true, 0, 0x0007, 0, 0⟩ = false ∧
    Transaction.canonical ⟨false, true, 0, 0x0403, 0, 0⟩ = false ∧
    Transaction.canonical ⟨false, true, 0, 0x0003, 1, 0⟩ = false := by decide

theorem test_noncanonical_rt :
    Transaction.canonical ⟨false, true, 1, 0x2000, 0, 0⟩ = false ∧
    Transaction.canonical ⟨false, true, 0, 0x2020, 0, 0⟩ = false ∧
    Transaction.canonical ⟨false, true, 0, 0x2400, 0, 0⟩ = false ∧
    Transaction.canonical ⟨false, true, 0, 0x2800, 1, 0⟩ = false := by decide

theorem test_noncanonical_ign :
    Transaction.canonical ⟨false, true, 1, 0x5000, 0, 0⟩ = false ∧
    Transaction.canonical ⟨false, true, 0, 0x5010, 0, 0⟩ = false ∧
    Transaction.canonical ⟨false, true, 0, 0x5000, 1, 0⟩ = false ∧
    Transaction.canonical ⟨false, true, 0, 0x5000, 0, 1⟩ = false := by decide

/-- Canonical ones, from R73 to R76 and V1, V18, V19. -/
theorem test_canonical :
    Transaction.canonical ⟨true, false, 0, 0, 0, 0⟩ = true ∧ Transaction.canonical ⟨false, false, 0, 0, 0, 0⟩ = true ∧
    Transaction.canonical ⟨false, true, 0, 0x0803, 0, 0x4748⟩ = true ∧
    Transaction.canonical ⟨false, true, 0, 0x201F, 0x4865, 0x6C6C⟩ = true ∧
    Transaction.canonical ⟨false, true, 0, 0x2803, 0, 0x6C6F⟩ = true ∧
    Transaction.canonical ⟨false, true, 0, 0x5000, 0, 0⟩ = true := by decide

/-! ### Decoding: words written out from `30_encoding.md` R70 to R81 and from the vectors -/

/-- V1, V3: `PS0A 3, "GH"` and `PS0B 3, "GH"`. -/
theorem test_decode_ps :
    decode ⟨false, true, 0x0000, 0x0003, 0x0000, 0x4748⟩ = .ps0a 3 0x47 0x48 ∧
    decode ⟨false, true, 0x0000, 0x0803, 0x0000, 0x4748⟩ = .ps0b 3 0x47 0x48 := by decide

/-- V5: unread bits set. -/
theorem test_decode_ps_unread :
    decode ⟨false, true, 0xFFFF, 0x07FF, 0xFFFF, 0x4748⟩ = .ps0a 3 0x47 0x48 ∧
    decode ⟨false, true, 0x0000, 0x000F, 0x1234, 0x4748⟩ = .ps0a 3 0x47 0x48 := by decide

/-- V18, V23: version A, toggle 0 and 1. -/
theorem test_decode_rt2a :
    decode ⟨false, true, 0x0000, 0x2000, 0x4865, 0x6C6C⟩ = .rt2a false 0 0x48 0x65 0x6C 0x6C ∧
    decode ⟨false, true, 0x0000, 0x201F, 0x4242, 0x4141⟩ = .rt2a true 15 0x42 0x42 0x41 0x41 := by decide

/-- V19; and the same with block C and every unread bit set. -/
theorem test_decode_rt2b :
    decode ⟨false, true, 0x0000, 0x2803, 0x0000, 0x6C6F⟩ = .rt2b false 3 0x6C 0x6F ∧
    decode ⟨false, true, 0xFFFF, 0x2FE3, 0xFFFF, 0x6C6F⟩ = .rt2b false 3 0x6C 0x6F := by decide

/-- V13, V17: ready clear, and rst over ready. -/
theorem test_decode_control :
    decode ⟨false, false, 0x1234, 0x0003, 0x0000, 0x5859⟩ = .idle ∧
    decode ⟨true, true, 0x0000, 0x0003, 0x0000, 0x4748⟩ = .rst := by decide

/-- V14: the 28 ignored group types with the low bits of block B set. -/
theorem test_decode_ignored :
    ([0x17FF, 0x1FFF, 0x37FF, 0x3FFF, 0x47FF, 0x4FFF, 0x57FF, 0x5FFF, 0x67FF, 0x6FFF, 0x77FF, 0x7FFF, 0x87FF, 0x8FFF,
      0x97FF, 0x9FFF, 0xA7FF, 0xAFFF, 0xB7FF, 0xBFFF, 0xC7FF, 0xCFFF, 0xD7FF, 0xDFFF, 0xE7FF, 0xEFFF, 0xF7FF,
      0xFFFF] : List Word).map (fun b => decode ⟨false, true, 0x1234, b, 0x4142, 0x4344⟩) =
    [.ign1a, .ign1b, .ign3a, .ign3b, .ign4a, .ign4b, .ign5a, .ign5b, .ign6a, .ign6b, .ign7a, .ign7b, .ign8a, .ign8b,
     .ign9a, .ign9b, .ign10a, .ign10b, .ign11a, .ign11b, .ign12a, .ign12b, .ign13a, .ign13b, .ign14a, .ign14b, .ign15a,
     .ign15b] := by decide

/-- R70: the 66 bits of V1's last group, `rst ++ ready ++ A ++ B ++ C ++ D`. -/
theorem test_decode_bits : decodeBits 0x10000000300004748 = .ps0a 3 0x47 0x48 := by decide

/-- R70: bit 65 is `rst`, bits 47 to 32 are block B. -/
theorem test_decode_bits_rst : decodeBits 0x30000000300004748 = .rst ∧ decodeBits 0x00000000300004748 = .idle ∧
    decodeBits 0x10000281300006C6F = .rt2b true 3 0x6C 0x6F := by decide

/-- `opcode_table.json`: W = 0x12800 is RT2B, W = 0x20000 is RST, W = 0 is IDLE; a nineteenth bit is no word. -/
theorem test_decode_table_word :
    decodeTableWord 24 0x12800 = some (.rt2b false 0 0 0) ∧ decodeTableWord 24 0x20000 = some .rst ∧
    decodeTableWord 18 0x00000 = some .idle ∧ decodeTableWord 24 0x1F800 = some .ign15b ∧
    decodeTableWord 24 0x40000 = none := by decide

/-- The word placed by `withFetchWord` is the one the next step runs. -/
theorem test_with_fetch_word :
    (nextOf (step (State.reset.withFetchWord 24 0x12000))).map (fun u => (u.rtBitmap, u.label)) =
      some (0x0001, ⟨.rt, none⟩) := by decide

/-- R56: a snapshot with bit 15 of slot 10 set and `PS0A 3, "GH"` in slots 12 to 15. -/
theorem test_poll :
    (nextOf (step (seenGH.poll false #v[0, 0, 0, 0, 0, 0, 0, 0, 0, 0, 0x8000, 0, 0x1234, 0x0003, 0, 0x4748]))).map
      (·.psPub) = some #v[0, 0, 0, 0, 0, 0, 0x47, 0x48] := by decide

/-! ### One step: service name -/

/-- V4 step 1: one differing bit is a mismatch; only PS_CAND changes. -/
theorem test_ps0a_mismatch :
    (onGroup named 0 0x0003 0 0x4749).map (fun u => (u.psCand, u.psConf, u.psPub, u.psEvent)) =
      some (#v[0x41, 0x42, 0x43, 0x44, 0x45, 0x46, 0x47, 0x49], abc, abc, none) := by decide

/-- V6 step 2: the partial name is published. -/
theorem test_ps0a_publish :
    (onGroup seenGH 0 0x0003 0 0x4748).map (fun u => (u.psConf, u.psPub, u.psEvent)) =
      some (#v[0, 0, 0, 0, 0, 0, 0x47, 0x48], #v[0, 0, 0, 0, 0, 0, 0x47, 0x48],
        some #v[0, 0, 0, 0, 0, 0, 0x47, 0x48]) := by decide

/-- V3 step 2: a 0B sighting confirms a 0A sighting. -/
theorem test_ps0b_publish :
    (onGroup seenGH 0 0x0803 0 0x4748).map (·.psEvent) =
      some (some #v[0, 0, 0, 0, 0, 0, 0x47, 0x48]) := by decide

/-- V9 step 3 (with a 0B group): a match at segment 3 while the candidate differs elsewhere publishes nothing. -/
theorem test_ps0b_blocked :
    (onGroup { named with psCand := #v[0x41, 0x42, 0x43, 0x3F, 0x45, 0x46, 0x58, 0x59] } 0 0x0803 0 0x5859).map
      (fun u => (u.psConf, u.psPub, u.psEvent)) =
    some (#v[0x41, 0x42, 0x43, 0x44, 0x45, 0x46, 0x58, 0x59], abc, none) := by decide

/-! ### One step: radio text -/

/-- V18, with block C first. -/
theorem test_rt2a_first :
    (onGroup State.reset 0 0x2000 0x4865 0x6C6C).map (fun u => (u.rtBuf, u.rtBitmap, u.rtPass, u.rtEvent)) =
      some ([(0, 0x48), (1, 0x65), (2, 0x6C), (3, 0x6C)], 0x0001, .first, none) := by decide

/-- V23 (a): a toggle change discards the sweep, and the group is the first of the new one. -/
theorem test_rt2a_toggle :
    (onGroup { busy with rtBitmap := 0x7FFF } 0 0x201F 0x4242 0x4242).map
      (fun u => (u.rtBuf, u.rtBitmap, u.rtPass, u.rtToggle)) =
    some ([(60, 0x42), (61, 0x42), (62, 0x42), (63, 0x42)], 0x8000, .first, true) := by decide

/-- V19. -/
theorem test_rt2b_first :
    (onGroup State.reset 0 0x2803 0 0x6C6F).map (fun u => (u.rtBuf, u.rtBitmap, u.rtPass)) =
      some ([(6, 0x6C), (7, 0x6F)], 0x0008, .first) := by decide

/-- V26 step 9: segment 8 differs from the blank bytes 16 and 17 and clears the text. -/
theorem test_rt2b_mismatch :
    (onGroup { busy with rtPass := .verify } 0 0x2808 0 0x6768).map
      (fun u => (u.rtBuf, u.rtBitmap, u.rtPass, u.label)) =
    some ([], 0x0000, .first, ⟨.rt, some .verificationMismatch⟩) := by decide

/-! ### One step: IDLE, ignored groups, reset -/

/-- V13: nothing changes. -/
theorem test_idle :
    nextOf (step (busy.presentNext ⟨false, false, 0x0000, 0x2010, 0x4142, 0x4344⟩)) =
      some { busy with label := ⟨.idle, none⟩ } := by decide

/-- V14, V15: all 28 ignored operations leave the state alone. -/
theorem test_ignored :
    Instr.ignoredOps.all (fun i => nextOf (exec i busy) == some { busy with label := ⟨.ign, some .ignoredInput⟩ }) =
      true := by decide

/-- V16, V17: everything is back at its reset value, and the group with it is lost. -/
theorem test_rst :
    nextOf (step ({ busy with rtPass := .verify, rtToggle := true }.presentNext
      ⟨true, true, 0x0000, 0x0003, 0x0000, 0x4748⟩)) = some State.reset := by decide

/-! ### Witnesses: concrete states and operands that meet each obligation's hypotheses -/

/-- UnreadBitsNeverMatter: two different transactions for each clause. -/
theorem witness_UnreadBitsNeverMatter :
    (∃ t u : Transaction, t ≠ u ∧ t.rst = true ∧ u.rst = true) ∧
    (∃ t u : Transaction, t ≠ u ∧ t.rst = false ∧ u.rst = false ∧ t.ready = false ∧ u.ready = false) ∧
    (∃ t u : Transaction, t ≠ u ∧ t.rst = false ∧ u.rst = false ∧ t.ready = true ∧ u.ready = true ∧
      t.b.extractLsb' 11 5 = u.b.extractLsb' 11 5 ∧ t.b.extractLsb' 12 4 = 0 ∧
      t.b.extractLsb' 0 2 = u.b.extractLsb' 0 2 ∧ t.d = u.d) ∧
    (∃ t u : Transaction, t ≠ u ∧ t.rst = false ∧ u.rst = false ∧ t.ready = true ∧ u.ready = true ∧
      t.b.extractLsb' 11 5 = u.b.extractLsb' 11 5 ∧ t.b.extractLsb' 12 4 = 2 ∧ t.b.getLsbD 11 = false ∧
      t.b.extractLsb' 0 5 = u.b.extractLsb' 0 5 ∧ t.c = u.c ∧ t.d = u.d) ∧
    (∃ t u : Transaction, t ≠ u ∧ t.rst = false ∧ u.rst = false ∧ t.ready = true ∧ u.ready = true ∧
      t.b.extractLsb' 11 5 = u.b.extractLsb' 11 5 ∧ t.b.extractLsb' 12 4 = 2 ∧ t.b.getLsbD 11 = true ∧
      t.b.extractLsb' 0 5 = u.b.extractLsb' 0 5 ∧ t.d = u.d) ∧
    (∃ t u : Transaction, t ≠ u ∧ t.rst = false ∧ u.rst = false ∧ t.ready = true ∧ u.ready = true ∧
      t.b.extractLsb' 11 5 = u.b.extractLsb' 11 5 ∧ t.b.extractLsb' 12 4 ≠ 0 ∧ t.b.extractLsb' 12 4 ≠ 2) :=
  ⟨⟨⟨true, true, 1, 2, 3, 4⟩, ⟨true, false, 0, 0, 0, 0⟩, by decide⟩,
   ⟨⟨false, false, 1, 2, 3, 4⟩, ⟨false, false, 0, 0, 0, 0⟩, by decide⟩,
   ⟨⟨false, true, 1, 0x0FFF, 3, 4⟩, ⟨false, true, 0, 0x0803, 0, 4⟩, by decide⟩,
   ⟨⟨false, true, 1, 0x27FF, 3, 4⟩, ⟨false, true, 0, 0x201F, 3, 4⟩, by decide⟩,
   ⟨⟨false, true, 1, 0x2FFF, 3, 4⟩, ⟨false, true, 0, 0x281F, 0, 4⟩, by decide⟩,
   ⟨⟨false, true, 1, 0x1FFF, 3, 4⟩, ⟨false, true, 0, 0x1800, 0, 0⟩, by decide⟩⟩

/-- CapabilityChecksRouteGroups: a ready group for each of its cases. -/
theorem witness_CapabilityChecksRouteGroups :
    (∃ t : Transaction, t.rst = false ∧ t.ready = true ∧ isServiceNameGroup (groupType t.b) = true) ∧
    (∃ t : Transaction, t.rst = false ∧ t.ready = true ∧ isRadioTextGroup (groupType t.b) = some .a) ∧
    (∃ t : Transaction, t.rst = false ∧ t.ready = true ∧ isRadioTextGroup (groupType t.b) = some .b) :=
  ⟨⟨⟨false, true, 0, 0x0FFF, 0, 0⟩, by decide⟩, ⟨⟨false, true, 0, 0x27FF, 0, 0⟩, by decide⟩,
   ⟨⟨false, true, 0, 0x2800, 0, 0⟩, by decide⟩⟩

/-- GroupTypeIsTopFiveBits: two blocks that agree in their top five bits only. -/
theorem witness_GroupTypeIsTopFiveBits :
    ∃ b b' : Word, b ≠ b' ∧ b.extractLsb' 11 5 = b'.extractLsb' 11 5 := ⟨0x2FFF, 0x2800, by decide⟩

/-- EncodeOfDecodeIsCanonical: a canonical transaction. -/
theorem witness_EncodeOfDecodeIsCanonical :
    ∃ t : Transaction, t.canonical = true := ⟨⟨false, true, 0, 0x201F, 0x4865, 0x6C6C⟩, by decide⟩

/-- OperationMapIsPartition: an operation whose row a transaction fits. -/
theorem witness_OperationMapIsPartition :
    ∃ (t : Transaction) (i : Instr), i.row.fits t = true :=
  ⟨⟨false, true, 0, 0x2FFF, 0, 0⟩, .rt2b false 0 0 0, by decide⟩

/-- MultiplexerRunsOneArm: a ready group. -/
theorem witness_MultiplexerRunsOneArm :
    ∃ t : Transaction, t.rst = false ∧ t.ready = true := ⟨⟨false, true, 0, 0x2FFF, 0, 0⟩, by decide⟩

/-- PollPresentsSnapshot: nothing presented; and two snapshots that differ in an unread slot only. -/
theorem witness_PollPresentsSnapshot :
    State.reset.stream = [] ∧
    ∃ x y : RegisterFile, x ≠ y ∧
      x[10].getLsbD State.reset.cfg.readyBit.val = y[10].getLsbD State.reset.cfg.readyBit.val ∧
      x[12] = y[12] ∧ x[13] = y[13] ∧ x[14] = y[14] ∧ x[15] = y[15] :=
  ⟨rfl, #v[0, 0, 0, 0, 0, 0, 0, 0, 0, 0, 0x8000, 0, 1, 2, 3, 4],
    #v[9, 0, 0, 0, 0, 0, 0, 0, 0, 0, 0x8001, 7, 1, 2, 3, 4], by decide⟩

/-- StepRunsDecodedTransaction: one transaction presented, and none. -/
theorem witness_StepRunsDecodedTransaction :
    (∃ (s : State) (t : Transaction) (rest : List Transaction), s.stream = t :: rest) ∧ State.reset.stream = [] :=
  ⟨⟨State.reset.presentNext ⟨false, true, 0, 0, 0, 0⟩, _, _, rfl⟩, rfl⟩

/-- RstRestoresEveryRegister: rst together with a ready group. -/
theorem witness_RstRestoresEveryRegister :
    ∃ t : Transaction, t.rst = true ∧ t.ready = true := ⟨⟨true, true, 0, 3, 0, 0⟩, by decide⟩

/-- IdleChangesNothing: ready clear with a group still in the blocks. -/
theorem witness_IdleChangesNothing :
    ∃ t : Transaction, t.rst = false ∧ t.ready = false := ⟨⟨false, false, 0, 0x2010, 0x4142, 0x4344⟩, by decide⟩

/-- IgnoredGroupChangesNothing: the group numbers next to 0 and 2, and the last. -/
theorem witness_IgnoredGroupChangesNothing :
    ∃ t u v : Transaction, t.b = 0x1000 ∧ u.b = 0x37FF ∧ v.b = 0xFFFF ∧
      (t.rst = false ∧ t.ready = true ∧ t.b.extractLsb' 12 4 ≠ 0 ∧ t.b.extractLsb' 12 4 ≠ 2) ∧
      (u.rst = false ∧ u.ready = true ∧ u.b.extractLsb' 12 4 ≠ 0 ∧ u.b.extractLsb' 12 4 ≠ 2) ∧
      (v.rst = false ∧ v.ready = true ∧ v.b.extractLsb' 12 4 ≠ 0 ∧ v.b.extractLsb' 12 4 ≠ 2) :=
  ⟨⟨false, true, 0, 0x1000, 0, 0⟩, ⟨false, true, 0, 0x37FF, 0, 0⟩, ⟨false, true, 0, 0xFFFF, 0, 0⟩, by decide⟩

/-- EachIgnoredOperationCompletes: a group of the first and of the last of the types. -/
theorem witness_EachIgnoredOperationCompletes :
    (∃ t : Transaction, t.rst = false ∧ t.ready = true ∧ t.b.extractLsb' 12 4 = 1 ∧ t.b.getLsbD 11 = false) ∧
    (∃ t : Transaction, t.rst = false ∧ t.ready = true ∧ t.b.extractLsb' 12 4 = 15 ∧ t.b.getLsbD 11 = true) :=
  ⟨⟨⟨false, true, 0, 0x1013, 0, 0⟩, by decide⟩, ⟨⟨false, true, 0, 0xFFFF, 0, 0⟩, by decide⟩⟩

/-- MatchCopiesPairIntoConfirmed: both branches, at the last and at the first segment. -/
theorem witness_MatchCopiesPairIntoConfirmed :
    (nameGet named.psCand (psOffset 3) = 0x47 ∧ nameGet named.psCand (psOffset 3 + 1) = 0x48) ∧
    ¬ (nameGet named.psCand (psOffset 0) = 0x47 ∧ nameGet named.psCand (psOffset 0 + 1) = 0x48) := by decide

/-- MismatchReplacesCandidatePair: V4, one differing bit, at segment 3. -/
theorem witness_MismatchReplacesCandidatePair :
    ¬ (nameGet named.psCand (psOffset 3) = 0x47 ∧ nameGet named.psCand (psOffset 3 + 1) = 0x49) := by decide

/-- PublishTestDecidesEvent: V6 passes the test, V2 (step 4) and V8 (step 2) fail it. -/
theorem witness_PublishTestDecidesEvent :
    (nameGet seenGH.psCand (psOffset 3) = 0x47 ∧ nameGet seenGH.psCand (psOffset 3 + 1) = 0x48 ∧
      ((onGroup seenGH 0 3 0 0x4748).map fun u => u.psConf == u.psCand && u.psConf != seenGH.psPub) = some true) ∧
    (nameGet named.psCand (psOffset 3) = 0x47 ∧ nameGet named.psCand (psOffset 3 + 1) = 0x48 ∧
      ((onGroup named 0 3 0 0x4748).map fun u => u.psConf == u.psCand && u.psConf != named.psPub) = some false) ∧
    (nameGet named.psCand (psOffset 0) = 0x41 ∧ nameGet named.psCand (psOffset 0 + 1) = 0x42) := by decide

/-- TwoSightingsConfirmPair: one sighting of each version. -/
theorem witness_TwoSightingsConfirmPair :
    ∃ i j : Instr, (i = .ps0a 3 1 2 ∨ i = .ps0b 3 1 2) ∧ (j = .ps0a 3 1 2 ∨ j = .ps0b 3 1 2) ∧ i ≠ j :=
  ⟨.ps0a 3 1 2, .ps0b 3 1 2, .inl rfl, .inr rfl, by decide⟩

/-- PublishOnlyOnConfirmedLastSegment: V6, a step that publishes. -/
theorem witness_PublishOnlyOnConfirmedLastSegment :
    ∃ (s u : State) (name : NameBuf), step s = .next u ∧ u.psEvent = some name :=
  ⟨seenGH.presentNext ⟨false, true, 0, 3, 0, 0x4748⟩, _, _, rfl, rfl⟩

/-- PublishedNameChangesOnlyByPublishOrReset: by a publish, and by RST. -/
theorem witness_PublishedNameChangesOnlyByPublishOrReset :
    (∃ s u : State, step s = .next u ∧ u.psPub ≠ s.psPub ∧ u.label.cls = .ps) ∧
    (∃ s u : State, step s = .next u ∧ u.psPub ≠ s.psPub ∧ u.label.cls = .rst) :=
  ⟨⟨seenGH.presentNext ⟨false, true, 0, 3, 0, 0x4748⟩, _, rfl, by decide, rfl⟩,
   ⟨named.presentNext ⟨true, false, 0, 0, 0, 0⟩, _, rfl, by decide, rfl⟩⟩

/-- UnchangedNameIsNeverRepublished: V2's segment 3 again, a radio-text group and an ignored group. -/
theorem witness_UnchangedNameIsNeverRepublished :
    ∃ (s : State) (name : NameBuf), s.psCand = name ∧ s.psConf = name ∧ s.psPub = name ∧ s.stream ≠ [] ∧
      ∀ t ∈ s.stream, classOf (decode t) ≠ .rst ∧
        (classOf (decode t) = .ps → ∃ seg, CarriesPair name seg (decode t)) := by
  refine ⟨{ named with stream := [⟨false, true, 0, 3, 0, 0x4748⟩, ⟨false, true, 0, 0x2000, 0, 0⟩,
    ⟨false, true, 0, 0x5000, 0, 0⟩] }, abc, rfl, rfl, rfl, by decide, ?_⟩
  intro t ht
  simp only [List.mem_cons, List.not_mem_nil, or_false] at ht
  rcases ht with rfl | rfl | rfl
  · exact ⟨by decide, fun _ => ⟨3, .inl rfl⟩⟩
  · exact ⟨by decide, fun h => absurd h (by decide)⟩
  · exact ⟨by decide, fun h => absurd h (by decide)⟩

/-- NameSeenTwiceIsPublishedOnce: V1, every second group in version B. -/
theorem witness_NameSeenTwiceIsPublishedOnce :
    ∃ (s : State) (name : NameBuf), s.psPub ≠ name ∧
      ¬ (nameGet s.psCand 6 = nameGet name 6 ∧ nameGet s.psCand 7 = nameGet name 7) ∧
      List.Forall₂ (CarriesPair name) [0, 0, 1, 1, 2, 2, 3, 3] ((s.stream.take 8).map decode) :=
  ⟨{ State.reset with stream :=
      [⟨false, true, 0, 0x0000, 0, 0x4142⟩, ⟨false, true, 0, 0x0800, 0, 0x4142⟩,
       ⟨false, true, 0, 0x0001, 0, 0x4344⟩, ⟨false, true, 0, 0x0801, 0, 0x4344⟩,
       ⟨false, true, 0, 0x0002, 0, 0x4546⟩, ⟨false, true, 0, 0x0802, 0, 0x4546⟩,
       ⟨false, true, 0, 0x0003, 0, 0x4748⟩, ⟨false, true, 0, 0x0803, 0, 0x4748⟩] }, abc, by decide, by decide,
   .cons (.inl rfl) <| .cons (.inr rfl) <| .cons (.inl rfl) <| .cons (.inr rfl) <|
   .cons (.inl rfl) <| .cons (.inr rfl) <| .cons (.inl rfl) <| .cons (.inr rfl) .nil⟩

/-- ToggleChangeStartsNewMessage: V23 (b), in a verification sweep one segment short. -/
theorem witness_ToggleChangeStartsNewMessage : true ≠ almostA.rtToggle ∧ almostA.rtPass = .verify := by decide

/-- FirstSweepWritesSegment: in the first sweep, a group that ends it and one that does not, for each version. -/
theorem witness_FirstSweepWritesSegment :
    busy.rtPass = .first ∧
    (nextOf (exec (.rt2a busy.rtToggle 15 1 2 3 4) busy)).map (·.rtPass) = some .first ∧
    (nextOf (exec (.rt2b busy.rtToggle 0 1 2) busy)).map (·.rtPass) = some .first ∧
    (nextOf (exec (.rt2b busy.rtToggle 0 1 2) { busy with rtBitmap := 0x00FF })).map (·.rtPass) = some .verify := by
  decide

/-- FirstSweepEndsAtTarget: each version at its target and one bit short of it. -/
theorem witness_FirstSweepEndsAtTarget :
    ∃ s r : State, s.rtPass = .first ∧ r.rtPass = .first ∧
      s.rtBitmap ||| 1#16 <<< (15#4).toNat = 0xFFFF ∧ s.rtBitmap ||| 1#16 <<< (0#4).toNat ≠ 0xFFFF ∧
      r.rtBitmap ||| 1#16 <<< (7#4).toNat = 0x00FF ∧ r.rtBitmap ||| 1#16 <<< (8#4).toNat ≠ 0x00FF :=
  ⟨{ State.reset with rtBitmap := 0x7FFF }, { State.reset with rtBitmap := 0x007F }, by decide⟩

/-- VerificationMatchCompletesOrMarks: the same in the verification sweep. -/
theorem witness_VerificationMatchCompletesOrMarks :
    almostA.rtPass = .verify ∧ almostB.rtPass = .verify ∧
    almostA.rtBitmap ||| 1#16 <<< (15#4).toNat = 0xFFFF ∧ almostA.rtBitmap ||| 1#16 <<< (0#4).toNat ≠ 0xFFFF ∧
    almostB.rtBitmap ||| 1#16 <<< (7#4).toNat = 0x00FF ∧
    almostB.rtBitmap ||| 1#16 <<< (15#4).toNat ≠ 0x00FF := by decide

/-- VerificationMismatchClearsText: one differing byte, the last, in each version; and a step that raises it. -/
theorem witness_VerificationMismatchClearsText :
    (almostA.rtPass = .verify ∧
      ¬ (almostA.rtByte (rtAddr .a 15) = 0x20 ∧ almostA.rtByte (rtAddr .a 15 + 1) = 0x20 ∧
        almostA.rtByte (rtAddr .a 15 + 2) = 0x20 ∧ almostA.rtByte (rtAddr .a 15 + 3) = 0x21) ∧
      ¬ (almostA.rtByte (rtAddr .b 0) = 0x20 ∧ almostA.rtByte (rtAddr .b 0 + 1) = 0x21)) ∧
    (∃ (i : Instr) (s u : State), exec i s = .next u ∧ u.label.cond = some .verificationMismatch) :=
  ⟨by decide, .rt2a false 15 0x20 0x20 0x20 0x21, almostA, _, rfl, by decide⟩

/-- PassCounterTransitions: 0 to 1 by each version, 1 to 0 by each of the four causes. -/
theorem witness_PassCounterTransitions :
    (nextOf (exec (.rt2a false 15 1 2 3 4) { State.reset with rtBitmap := 0x7FFF })).map (·.rtPass) = some .verify ∧
    (nextOf (exec (.rt2b false 7 1 2) { State.reset with rtBitmap := 0x007F })).map (·.rtPass) = some .verify ∧
    almostB.rtPass = .verify ∧
    (nextOf (exec (.rt2b false 7 0x20 0x20) almostB)).map (·.rtPass) = some .first ∧
    (nextOf (exec (.rt2b false 7 0x20 0x21) almostB)).map (·.rtPass) = some .first ∧
    (nextOf (exec (.rt2b true 7 0x20 0x20) almostB)).map (·.rtPass) = some .first ∧
    (nextOf (exec .rst almostB)).map (·.rtPass) = some .first := by decide

/-- ToggleFlagFollowsRadioText: a radio-text group of each version, one of them a mismatch; an operation of each other
class. -/
theorem witness_ToggleFlagFollowsRadioText :
    (∃ t : Transaction, t.rst = false ∧ t.ready = true ∧ t.b.extractLsb' 12 4 = 2 ∧
      ((onGroup almostA t.a t.b t.c t.d).map fun u => u.label.cond) = some (some .verificationMismatch)) ∧
    (∃ t : Transaction, t.rst = false ∧ t.ready = true ∧ t.b.extractLsb' 12 4 = 2 ∧ t.b.getLsbD 11 = true) ∧
    classOf (.ps0a 0 0 0) = .ps ∧ classOf .ign15b = .ign :=
  ⟨⟨⟨false, true, 0, 0x2000, 0, 0⟩, by decide⟩, ⟨⟨false, true, 0, 0x2FFF, 0, 0⟩, by decide⟩, rfl, rfl⟩

/-- VerificationSweepNeverWritesText: a byte that changes in the verification sweep, by a mismatch. -/
theorem witness_VerificationSweepNeverWritesText :
    ∃ (i : Instr) (s u : State) (a : Addr), exec i s = .next u ∧ s.rtPass = .verify ∧ u.rtByte a ≠ s.rtByte a :=
  ⟨.rt2b false 8 1 2, { busy with rtPass := .verify }, _, 0, rfl, rfl, by decide⟩

/-- HighSegmentBlocksVersionB: V25 after its first step, with a version-B group, a service-name group and an IDLE to
come. -/
theorem witness_HighSegmentBlocksVersionB :
    ∃ s : State, s.rtPass = .first ∧ s.rtBitmap.extractLsb' 8 8 ≠ 0 ∧ s.stream ≠ [] ∧
      ∀ t ∈ s.stream, classOf (decode t) ≠ .rst ∧
        (classOf (decode t) = .rt → ∃ seg c0 c1, decode t = .rt2b s.rtToggle seg c0 c1) := by
  refine ⟨{ State.reset with rtBitmap := 0x0100, stream := [⟨false, true, 0, 0x2807, 0, 0x2020⟩,
    ⟨false, true, 0, 0x0003, 0, 0⟩, ⟨false, false, 0, 0, 0, 0⟩] }, rfl, by decide, by decide, ?_⟩
  intro t ht
  simp only [List.mem_cons, List.not_mem_nil, or_false] at ht
  rcases ht with rfl | rfl | rfl
  · exact ⟨by decide, fun _ => ⟨7, 0x20, 0x20, rfl⟩⟩
  · exact ⟨by decide, fun h => absurd h (by decide)⟩
  · exact ⟨by decide, fun h => absurd h (by decide)⟩

/-- The sixteen segment indices in order. -/
def allSegments : List (BitVec 4) := [0, 1, 2, 3, 4, 5, 6, 7, 8, 9, 10, 11, 12, 13, 14, 15]

/-- A text of 64 different characters. -/
def someText : TextBuf := Vector.ofFn fun i : Fin 64 => BitVec.ofNat 8 (i.val + 0x21)

/-- TwoCleanSweepsEmitText: the first sweep in order, the second in reverse, from reset; and with the other toggle in
the middle of a verification sweep. -/
theorem witness_TwoCleanSweepsEmitText :
    allSegments.Nodup ∧ allSegments.length = 16 ∧ allSegments.reverse.Nodup ∧ allSegments.reverse.length = 16 ∧
    (State.reset.rtBitmap = 0x0000 ∧ State.reset.rtPass = .first) ∧ true ≠ almostA.rtToggle ∧
    ∀ tog : Bool, ∃ stream : List Transaction, (stream.take 32).map decode =
      (allSegments ++ allSegments.reverse).map (textGroupA tog someText) := by
  refine ⟨by decide, rfl, by decide, rfl, by decide, by decide, fun tog =>
    ⟨(allSegments ++ allSegments.reverse).map fun seg => encode (textGroupA tog someText seg), ?_⟩⟩
  cases tog <;> rfl

/-- NoTextBeforeTwoSweeps: 15 version-B groups, and 31 version-A groups, each with other steps after them. -/
theorem witness_NoTextBeforeTwoSweeps :
    (∃ (s : State) (n : Nat), s.rtBitmap = 0x0000 ∧ s.rtPass = .first ∧
      (s.stream.take n).countP (fun t => classOf (decode t) == .rt) = 15) ∧
    (∃ (s : State) (n : Nat), s.rtBitmap = 0x0000 ∧ s.rtPass = .first ∧
      (∀ t ∈ s.stream.take n, ∀ tog seg c0 c1, decode t ≠ .rt2b tog seg c0 c1) ∧
      (s.stream.take n).countP (fun t => classOf (decode t) == .rt) = 31) := by
  refine ⟨⟨{ State.reset with stream := List.replicate 15 ⟨false, true, 0, 0x2800, 0, 0⟩ }, 20, rfl, rfl, by decide⟩,
    ⟨{ State.reset with stream := List.replicate 31 ⟨false, true, 0, 0x2000, 0, 0⟩ }, 40, rfl, rfl, ?_, by decide⟩⟩
  intro t ht tog seg c0 c1
  have e : t = ⟨false, true, 0, 0x2000, 0, 0⟩ := List.eq_of_mem_replicate (List.mem_of_mem_take ht)
  rw [e]
  exact fun h => Instr.noConfusion h

/-- TextOnlyAfterMatchingSweep: a step of each version that emits. -/
theorem witness_TextOnlyAfterMatchingSweep :
    (∃ (i : Instr) (s u : State) (x : TextEvent), exec i s = .next u ∧ u.rtEvent = some x ∧ s = almostA) ∧
    (∃ (i : Instr) (s u : State) (x : TextEvent), exec i s = .next u ∧ u.rtEvent = some x ∧ s = almostB) :=
  ⟨⟨.rt2a false 15 0x20 0x20 0x20 0x20, almostA, _, _, rfl, rfl, rfl⟩,
   ⟨.rt2b false 7 0x20 0x20, almostB, _, _, rfl, rfl, rfl⟩⟩

/-- EveryStepKeepsInv: the state of V14 meets the invariant but for the label, which reset's does; a step from it. -/
theorem witness_EveryStepKeepsInv :
    ∃ s u : State, Inv s ∧ step s = .next u ∧ u.rtBitmap ≠ s.rtBitmap := by
  refine ⟨({ busy with label := ⟨.idle, none⟩ } : State).presentNext ⟨false, true, 0, 0x2001, 0, 0⟩, _, ?_, rfl,
    by decide⟩
  exact {
    memory := by decide
    oneEvent := .inl rfl
    eventOrCondition := fun h => absurd rfl h
    noMalformedIndex := by decide
    ignored := by decide
    published := fun _ h => nomatch h
    emitted := fun _ h => nomatch h
    mismatch := fun h => nomatch h
    afterReset := fun h => nomatch h }

end Sys2Proof.Tests
end

section
/-! PROOF. RT_TOGGLE follows the radio-text groups and is invisible to the service-name and ignored operations
(`10_state.md` R28). -/
namespace Sys2Proof.Machine

/-! ### Radio-text groups record their flag -/

/-- An observation raises VerificationMismatch exactly when a group of the verification sweep, without toggle change,
differs from the stored bytes (`60_exceptions.md` R192). -/
theorem radioTextObserve_cond_iff (ver : Version) (seg : BitVec 4) (tog : Bool) (chars : List Byte) (s : State) :
    (radioTextObserve ver seg tog chars s).label.cond = some .verificationMismatch ↔
      tog = s.rtToggle ∧ s.rtPass = .verify ∧ s.memRead (rtAddr ver seg) (segWidth ver) ≠ chars := by
  rcases radioText_kinds ver seg tog chars s with h | ⟨h, hp⟩ | ⟨h, hp, hm⟩ | ⟨h, hp, hm⟩
  · simp [radioTextObserve_toggle h, h]
  · rw [radioTextObserve_first h hp]; split <;> simp [hp]
  · rw [radioTextObserve_match h hp hm]; split <;> simp [hm]
  · rw [radioTextObserve_mismatch h hp hm]; simp [h, hp, hm]

/-- A ready group of group number 2 is a radio-text observation with the group's own flag, whatever its version
(`40_classifier.md` R102, R105). -/
theorem exec_decode_radioText {t : Transaction} (hrst : t.rst = false) (hready : t.ready = true)
    (hgn : t.b.extractLsb' 12 4 = 2) (s : State) :
    ∃ ver seg chars, exec (decode t) s = .next (radioTextObserve ver seg (toggleField t.b) chars s) := by
  rw [decode_ready hrst hready]
  cases hver : t.b.getLsbD 11 with
  | false =>
    have htype : groupType t.b = ⟨2, .a⟩ := by rw [groupType, hgn, hver]; rfl
    rw [decodeGroup_rt2a htype]
    exact ⟨.a, _, _, rfl⟩
  | true =>
    have htype : groupType t.b = ⟨2, .b⟩ := by rw [groupType, hgn, hver]; rfl
    rw [decodeGroup_rt2b htype]
    exact ⟨.b, _, _, rfl⟩

/-! ### Other groups neither write nor read it -/

/-- A service-name observation does not read RT_TOGGLE: with another flag it has the same outcome, and keeps that
flag. -/
theorem serviceNameObserve_setToggle (seg : BitVec 2) (c0 c1 : Byte) (s : State) (g : Bool) :
    serviceNameObserve seg c0 c1 { s with rtToggle := g } =
      { serviceNameObserve seg c0 c1 s with rtToggle := g } := by
  unfold serviceNameObserve
  cases hmatch : pairMatches s.psCand (psOffset seg) c0 c1 with
  | false => rfl
  | true =>
    simp only [State.confirmPair, if_true]
    cases htest : State.publishTest { s with psConf := nameSetPair s.psConf (psOffset seg) c0 c1 } seg with
    | false => exact if_neg (htest ▸ Bool.false_ne_true)
    | true => exact if_pos htest

/-- A service-name or ignored operation neither writes RT_TOGGLE nor reads it. -/
theorem exec_toggle_blind {i : Instr} (hi : classOf i = .ps ∨ classOf i = .ign) (s : State) :
    ∃ u, exec i s = .next u ∧ u.rtToggle = s.rtToggle ∧
      ∀ g : Bool, exec i { s with rtToggle := g } = .next { u with rtToggle := g } := by
  rcases exec_cases i s with ⟨rfl, _⟩ | ⟨rfl, _⟩ | ⟨seg, c0, c1, hps, hexec⟩ | ⟨_, _, _, _, _, _, rfl, _⟩ |
    ⟨_, _, _, _, rfl, _⟩ | ⟨hign, hexec⟩
  · simp [classOf] at hi
  · simp [classOf] at hi
  · obtain ⟨_, _, _, htoggle, _⟩ := serviceNameObserve_frame seg c0 c1 s
    refine ⟨_, hexec, htoggle, fun g => ?_⟩
    rw [← serviceNameObserve_setToggle]
    rcases hps with rfl | rfl <;> rfl
  · simp [classOf] at hi
  · simp [classOf] at hi
  · exact ⟨_, hexec, rfl, fun g => exec_ignored hign { s with rtToggle := g }⟩

/-- Settles O32: a radio-text group is an observation with its own flag B[4], which the observation leaves in
RT_TOGGLE; a mismatch presupposes that flag; the other two classes are blind to it. -/
theorem toggleFlagFollowsRadioText : Obligations.ToggleFlagFollowsRadioText := by
  refine ⟨fun s t hrst hready hgn => ?_, fun i s hi => exec_toggle_blind hi s⟩
  obtain ⟨ver, seg, chars, hexec⟩ := exec_decode_radioText hrst hready hgn s
  obtain ⟨_, _, _, _, _, htoggle, _⟩ := radioTextObserve_frame ver seg (toggleField t.b) chars s
  refine ⟨_, hexec, htoggle, fun hcond => htoggle.trans ?_⟩
  exact ((radioTextObserve_cond_iff ver seg _ chars s).mp hcond).1

end Sys2Proof.Machine
end

section
/-! PROOF. The group classifier and its two capability checks (`40_classifier.md` R100 to R102). -/
namespace Sys2Proof

/-! ### The group type (`40_classifier.md` R100) -/

/-- The version flag of a group type, as a bit, is bit 11 of block B (`30_encoding.md` R71). -/
theorem groupType_ver_toBit (b : Word) : (groupType b).ver.toBit = b.extractLsb' 11 1 := by
  have hbit : b.extractLsb' 11 1 = BitVec.ofBool (b.getLsbD 11) := by
    ext i hi
    simp [show i = 0 by omega]
  rw [hbit, groupType]
  cases b.getLsbD 11 <;> rfl

theorem groupType_number (b : Word) : (groupType b).number = b.extractLsb' 11 5 :=
  calc (groupType b).number
    _ = b.extractLsb' 12 4 ++ b.extractLsb' 11 1 := by rw [GroupType.number, groupType_ver_toBit]; rfl
    _ = b.extractLsb' 11 5 := BitVec.extractLsb'_append_extractLsb'_eq_extractLsb' rfl

theorem Version.toBit_inj {v w : Version} (h : v.toBit = w.toBit) : v = w := by
  revert h
  cases v <;> cases w <;> decide

/-- The 5-bit number determines the group type (`30_encoding.md` R77). -/
theorem GroupType.eq_of_number_eq {t u : GroupType} (h : t.number = u.number) : t = u := by
  have hnum : 2 * t.gn.toNat + t.ver.toBit.toNat = 2 * u.gn.toNat + u.ver.toBit.toNat := by
    rw [← t.number_toNat, ← u.number_toNat, h]
  have ht := t.ver.toBit.isLt
  have hu := u.ver.toBit.isLt
  have hgn : t.gn = u.gn := BitVec.eq_of_toNat_eq (by omega)
  have hver : t.ver = u.ver := Version.toBit_inj (BitVec.eq_of_toNat_eq (by omega))
  exact (GroupType.mk.injEq ..).mpr ⟨hgn, hver⟩

/-- Settles O6: the pair is the definition, its number is one extraction because version and group number are adjacent
fields, and that number determines the type. -/
theorem groupTypeIsTopFiveBits : Obligations.GroupTypeIsTopFiveBits := by
  refine ⟨fun b => ⟨rfl, groupType_number b⟩, fun b b' h => GroupType.eq_of_number_eq ?_⟩
  rw [groupType_number, groupType_number, h]

/-! ### The capability checks (`40_classifier.md` R101, R102) -/

theorem isServiceNameGroup_iff (g : GroupType) : isServiceNameGroup g = true ↔ g.gn = 0 := beq_iff_eq

theorem isRadioTextGroup_eq_some_iff (g : GroupType) (v : Version) :
    isRadioTextGroup g = some v ↔ g = ⟨2, v⟩ := by
  obtain ⟨gn, ver⟩ := g
  simp [isRadioTextGroup]

theorem groupType_eq_iff (b : Word) (gn : BitVec 4) (v : Version) :
    groupType b = ⟨gn, v⟩ ↔ b.extractLsb' 12 4 = gn ∧ v = if b.getLsbD 11 then .b else .a := by
  rw [groupType, GroupType.mk.injEq, eq_comm (a := v)]

/-! ### The version bit lies outside the group number and the service-name segment -/

theorem groupType_gn_flipVersion (b : Word) : (groupType (b ^^^ 0x0800)).gn = (groupType b).gn := by
  have hmask : (0x0800 : Word).extractLsb' 12 4 = 0#4 := by decide
  show (b ^^^ 0x0800).extractLsb' 12 4 = b.extractLsb' 12 4
  rw [BitVec.extractLsb'_xor, hmask, BitVec.xor_zero]

theorem psSegField_flipVersion (b : Word) : psSegField (b ^^^ 0x0800) = psSegField b := by
  have hmask : (0x0800 : Word).extractLsb' 0 2 = 0#2 := by decide
  rw [psSegField, BitVec.extractLsb'_xor, hmask, BitVec.xor_zero, psSegField]

/-! ### What a group of each kind decodes to -/

/-- Two blocks with the same two characters are the same block (`20_memory.md` R51). -/
theorem chars_eq_iff (x y : Word) : firstChar x = firstChar y ∧ secondChar x = secondChar y ↔ x = y := by
  refine ⟨fun ⟨hfirst, hsecond⟩ => ?_, fun h => h ▸ ⟨rfl, rfl⟩⟩
  rw [← append_chars x, hfirst, hsecond, append_chars]

/-- A ready group of group number 0 is a service-name operation of one of the versions. -/
theorem decode_serviceName {t : Transaction} (hrst : t.rst = false) (hready : t.ready = true)
    (hgn : (groupType t.b).gn = 0) :
    decode t = .ps0a (psSegField t.b) (firstChar t.d) (secondChar t.d) ∨
    decode t = .ps0b (psSegField t.b) (firstChar t.d) (secondChar t.d) := by
  rw [decode_ready hrst hready]
  cases hver : (groupType t.b).ver with
  | a => exact .inl (decodeGroup_ps0a (by rw [← hgn, ← hver]))
  | b => exact .inr (decodeGroup_ps0b (by rw [← hgn, ← hver]))

section RadioText

variable {t : Transaction} (hrst : t.rst = false) (hready : t.ready = true)
include hrst hready

theorem decode_radioText_a (htype : groupType t.b = ⟨2, .a⟩) :
    decode t = .rt2a (toggleField t.b) (rtSegField t.b) (firstChar t.c) (secondChar t.c) (firstChar t.d)
      (secondChar t.d) :=
  (decode_ready hrst hready).trans (decodeGroup_rt2a htype)

theorem decode_radioText_b (htype : groupType t.b = ⟨2, .b⟩) :
    decode t = .rt2b (toggleField t.b) (rtSegField t.b) (firstChar t.d) (secondChar t.d) :=
  (decode_ready hrst hready).trans (decodeGroup_rt2b htype)

/-- A version-A group carries its text in all of blocks C and D (`30_encoding.md` R79). -/
theorem decode_sourceBlocks_a (htype : groupType t.b = ⟨2, .a⟩) (c d : Word) :
    decode { t with c := c, d := d } = decode t ↔ c = t.c ∧ d = t.d := by
  rw [decode_radioText_a hrst hready htype,
    decode_radioText_a (t := { t with c := c, d := d }) hrst hready htype, ← chars_eq_iff c, ← chars_eq_iff d]
  simp [and_assoc]

/-- A version-B group carries its text in all of block D, and does not read block C (`30_encoding.md` R79). -/
theorem decode_sourceBlocks_b (htype : groupType t.b = ⟨2, .b⟩) (c d : Word) :
    decode { t with c := c, d := d } = decode t ↔ d = t.d := by
  rw [decode_radioText_b hrst hready htype,
    decode_radioText_b (t := { t with c := c, d := d }) hrst hready htype, ← chars_eq_iff d]
  simp

end RadioText

end Sys2Proof

namespace Sys2Proof.Machine

/-! ### What the assemblers take from the checks -/

/-- A ready group of group number 0, of either version, is a service-name observation of its segment and of block D
(`40_classifier.md` R103). -/
theorem exec_decode_serviceName {t : Transaction} (hrst : t.rst = false) (hready : t.ready = true)
    (hgn : (groupType t.b).gn = 0) :
    classOf (decode t) = .ps ∧ ∀ s : State,
      exec (decode t) s = .next (serviceNameObserve (psSegField t.b) (firstChar t.d) (secondChar t.d) s) := by
  rcases decode_serviceName hrst hready hgn with h | h <;> rw [h] <;> exact ⟨rfl, fun _ => rfl⟩

/-- The service-name assembler does not use the version (`41_service_name.md` R125). -/
theorem exec_decode_flipVersion {t : Transaction} (hrst : t.rst = false) (hready : t.ready = true)
    (hgn : (groupType t.b).gn = 0) (s : State) :
    exec (decode { t with b := t.b ^^^ 0x0800 }) s = exec (decode t) s := by
  obtain ⟨_, hexec⟩ := exec_decode_serviceName hrst hready hgn
  obtain ⟨_, hflipped⟩ := exec_decode_serviceName (t := { t with b := t.b ^^^ 0x0800 }) hrst hready
    ((groupType_gn_flipVersion t.b).trans hgn)
  rw [hexec, hflipped, psSegField_flipVersion]

/-- A radio-text group observes as many characters as its version's segment is wide (`30_encoding.md` R79). -/
theorem exec_decode_radioText_segWidth {t : Transaction} (hrst : t.rst = false) (hready : t.ready = true)
    {v : Version} (htype : groupType t.b = ⟨2, v⟩) :
    ∃ seg tog chars, chars.length = segWidth v ∧
      ∀ s : State, exec (decode t) s = .next (radioTextObserve v seg tog chars s) := by
  cases v with
  | a =>
    rw [decode_radioText_a hrst hready htype]
    exact ⟨_, _, [_, _, _, _], rfl, fun _ => rfl⟩
  | b =>
    rw [decode_radioText_b hrst hready htype]
    exact ⟨_, _, [_, _], rfl, fun _ => rfl⟩

/-- Settles O7: each check is an equation about the group type, which fixes the decoded operation and with it what the
assembler is given. -/
theorem capabilityChecksRouteGroups : Obligations.CapabilityChecksRouteGroups := by
  refine ⟨by decide, fun t hrst hready => ?_⟩
  simp only [isServiceNameGroup_iff, isRadioTextGroup_eq_some_iff]
  refine ⟨Iff.rfl, fun hgn => ⟨?_, ?_⟩, groupType_eq_iff t.b 2, fun v htype => ?_, ?_, ?_⟩
  · exact (exec_decode_serviceName hrst hready hgn).1
  · exact exec_decode_flipVersion hrst hready hgn
  · exact exec_decode_radioText_segWidth hrst hready htype
  · exact decode_sourceBlocks_a hrst hready
  · exact decode_sourceBlocks_b hrst hready

end Sys2Proof.Machine
end

section
/-! PROOF. The matcher's two branches: a match confirms the pair, a mismatch makes it the candidate
(`41_service_name.md` R121, R122). -/
namespace Sys2Proof.Machine

/-- The part of the frame that both branches of the matcher state: radio text, input, no text event, the label. -/
theorem serviceNameObserve_textFrame (seg : BitVec 2) (c0 c1 : Byte) (s : State) :
    s.SameText (serviceNameObserve seg c0 c1 s) ∧ s.SameInput (serviceNameObserve seg c0 c1 s) ∧
    (serviceNameObserve seg c0 c1 s).rtEvent = none ∧ (serviceNameObserve seg c0 c1 s).label = ⟨.ps, none⟩ := by
  obtain ⟨_, _, _, _, hevent, hlabel, hstream, hcfg⟩ := serviceNameObserve_frame seg c0 c1 s
  exact ⟨serviceNameObserve_sameText seg c0 c1 s, ⟨hstream, hcfg⟩, hevent, hlabel⟩

section Branches

variable {s : State} {seg : BitVec 2} {c0 c1 : Byte}

/-- The match branch copies the pair into PS_CONF and leaves PS_CAND; a publish, where one follows, changes neither
(`41_service_name.md` R121, R123). -/
theorem serviceNameObserve_match
    (hmatch : nameGet s.psCand (psOffset seg) = c0 ∧ nameGet s.psCand (psOffset seg + 1) = c1) :
    (serviceNameObserve seg c0 c1 s).psConf = nameSetPair s.psConf (psOffset seg) c0 c1 ∧
    (serviceNameObserve seg c0 c1 s).psCand = s.psCand := by
  rcases serviceNameObserve_cases seg c0 c1 s with ⟨hm, _⟩ | ⟨_, _, hobs⟩ | ⟨_, _, hconf, _, hobs⟩
  · rw [pairMatches_iff.mpr hmatch] at hm
    contradiction
  · rw [hobs]
    exact ⟨rfl, rfl⟩
  · rw [hobs]
    exact ⟨hconf.symm, rfl⟩

/-- The mismatch branch writes the pair into PS_CAND and nothing else (`41_service_name.md` R122). -/
theorem serviceNameObserve_mismatch
    (hmis : ¬ (nameGet s.psCand (psOffset seg) = c0 ∧ nameGet s.psCand (psOffset seg + 1) = c1)) :
    serviceNameObserve seg c0 c1 s =
      { s with psCand := nameSetPair s.psCand (psOffset seg) c0 c1 }.quiet .ps := by
  rcases serviceNameObserve_cases seg c0 c1 s with ⟨_, hobs⟩ | ⟨hm, _⟩ | ⟨hm, _⟩
  · exact hobs
  · exact absurd (pairMatches_iff.mp hm) hmis
  · exact absurd (pairMatches_iff.mp hm) hmis

end Branches

/-- Settles O18: the pair is set in PS_CONF on the match branch, and PS_CONF is not written on the other. -/
theorem matchCopiesPairIntoConfirmed : Obligations.MatchCopiesPairIntoConfirmed := by
  intro s seg c0 c1
  refine ⟨serviceNameObserve seg c0 c1 s, rfl, rfl, fun i => ?_,
    fun h0 h1 => (serviceNameObserve_match ⟨h0, h1⟩).2, serviceNameObserve_textFrame seg c0 c1 s⟩
  split
  case isTrue hmatch => rw [(serviceNameObserve_match hmatch).1, nameGet_nameSetPair]
  case isFalse hmis => rw [serviceNameObserve_mismatch hmis, State.quiet_psConf]

/-- Settles O19: the mismatch branch is one write of PS_CAND, whatever the segment. -/
theorem mismatchReplacesCandidatePair : Obligations.MismatchReplacesCandidatePair := by
  intro s seg c0 c1 hmis
  have hframe := serviceNameObserve_textFrame seg c0 c1 s
  have hobs := serviceNameObserve_mismatch hmis
  refine ⟨serviceNameObserve seg c0 c1 s, rfl, rfl, fun i => ?_, ?_, ?_, ?_, hframe⟩
  · rw [hobs, State.quiet_psCand, nameGet_nameSetPair]
  all_goals rw [hobs]; rfl

end Sys2Proof.Machine
end

section
/-! PROOF. A written group: after a toggle change, or in the first sweep, its characters go into RT_BUF without a
compare (`42_radio_text.md` R142, R143). -/
namespace Sys2Proof.Machine

/-! ### Bytes after a toggle change -/

/-- A toggle change leaves RT_BLANK at every address (`42_radio_text.md` R141, R142). -/
theorem State.rtByte_toggleChange_changed {s : State} {tog : Bool} (h : tog ≠ s.rtToggle) (k : Addr) :
    (s.toggleChange tog).rtByte k = s.cfg.rtBlank := by
  rw [State.toggleChange_changed h]
  exact State.rtByte_of_nil rfl k

/-! ### What a written group does -/

section Written

variable {s : State} {tog : Bool} (hw : tog ≠ s.rtToggle ∨ (tog = s.rtToggle ∧ s.rtPass = .first))
include hw

/-- A written group's bytes are those of one memory write, made after the toggle test, whether or not the group ends
the sweep. -/
theorem radioTextObserve_written_rtByte (ver : Version) (seg : BitVec 4) (chars : List Byte) (k : Addr) :
    (radioTextObserve ver seg tog chars s).rtByte k =
      ((s.toggleChange tog).memWrite (rtAddr ver seg) chars).rtByte k := by
  rcases hw with h | ⟨h, hpass⟩
  · rw [radioTextObserve_toggle h, State.toggleChange_changed h]
    rfl
  · rw [radioTextObserve_first h hpass, State.toggleChange_same h]
    split <;> rfl

/-- A written group records its flag, emits no event and raises no condition, and leaves the service name and the input
alone. -/
theorem radioTextObserve_written_frame (ver : Version) (seg : BitVec 4) (chars : List Byte) :
    let u := radioTextObserve ver seg tog chars s
    u.rtToggle = tog ∧ u.rtEvent = none ∧ u.psEvent = none ∧ u.label = ⟨.rt, none⟩ ∧ s.SameName u ∧
    s.SameInput u := by
  obtain ⟨hcand, hconf, hpub, hpsEvent, _, htoggle, hstream, hcfg⟩ := radioTextObserve_frame ver seg tog chars s
  have hquiet : (radioTextObserve ver seg tog chars s).rtEvent = none ∧
      (radioTextObserve ver seg tog chars s).label = ⟨.rt, none⟩ := by
    rcases hw with h | ⟨h, hpass⟩
    · rw [radioTextObserve_toggle h]
      exact ⟨rfl, rfl⟩
    · rw [radioTextObserve_first h hpass]
      split <;> exact ⟨rfl, rfl⟩
  exact ⟨htoggle, hquiet.1, hpsEvent, hquiet.2, ⟨hcand, hconf, hpub⟩, hstream, hcfg⟩

/-- A written version-A group changes four bytes of the buffer that the toggle test leaves (`42_radio_text.md`
R150). -/
theorem radioTextObserve_written_rtByte_a (seg : BitVec 4) (c0 c1 c2 c3 : Byte) (k : Addr) :
    (radioTextObserve .a seg tog [c0, c1, c2, c3] s).rtByte k =
      if k = rtAddr .a seg then c0 else if k = rtAddr .a seg + 1 then c1
      else if k = rtAddr .a seg + 2 then c2 else if k = rtAddr .a seg + 3 then c3
      else (s.toggleChange tog).rtByte k := by
  rw [radioTextObserve_written_rtByte hw, State.rtByte_memWrite_four]

/-- A written version-B group changes two bytes of the buffer that the toggle test leaves (`42_radio_text.md` R151). -/
theorem radioTextObserve_written_rtByte_b (seg : BitVec 4) (c0 c1 : Byte) (k : Addr) :
    (radioTextObserve .b seg tog [c0, c1] s).rtByte k =
      if k = rtAddr .b seg then c0 else if k = rtAddr .b seg + 1 then c1
      else (s.toggleChange tog).rtByte k := by
  rw [radioTextObserve_written_rtByte hw, State.rtByte_memWrite_two]

end Written

/-! ### The bitmap -/

/-- After a toggle change the bitmap holds the group's bit alone, and a first sweep is under way (`42_radio_text.md`
R142): one bit is neither target, so the group does not end it. -/
theorem radioTextObserve_toggle_sweep {tog : Bool} {s : State} (h : tog ≠ s.rtToggle) (ver : Version)
    (seg : BitVec 4) (chars : List Byte) :
    (radioTextObserve ver seg tog chars s).rtBitmap = segBit seg ∧
    (radioTextObserve ver seg tog chars s).rtPass = .first := by
  rw [radioTextObserve_toggle h]
  simp

/-- A group of the first sweep that does not end it sets its bit, whether or not it was set (`42_radio_text.md`
R143). -/
theorem radioTextObserve_first_rtBitmap {ver : Version} {seg : BitVec 4} {tog : Bool} {chars : List Byte} {s : State}
    (h : tog = s.rtToggle) (hpass : s.rtPass = .first)
    (hgoesOn : (radioTextObserve ver seg tog chars s).rtPass = .first) :
    (radioTextObserve ver seg tog chars s).rtBitmap = s.rtBitmap ||| segBit seg := by
  rw [radioTextObserve_first h hpass] at hgoesOn ⊢
  split at hgoesOn
  case isTrue => exact nomatch hgoesOn
  case isFalse hopen => rw [if_neg hopen, State.quiet_rtBitmap, State.markSegment_rtBitmap, State.memWrite_rtBitmap]

/-! ### The two statements -/

/-- Settles O26: the group is written into the buffer that the toggle change blanked. -/
theorem toggleChangeStartsNewMessage : Obligations.ToggleChangeStartsNewMessage := by
  intro s tog seg c0 c1 c2 c3 h
  obtain ⟨hbitmapA, hpassA⟩ := radioTextObserve_toggle_sweep h .a seg [c0, c1, c2, c3]
  obtain ⟨hbitmapB, hpassB⟩ := radioTextObserve_toggle_sweep h .b seg [c0, c1]
  refine ⟨⟨_, rfl, fun k => ?_, hbitmapA, hpassA, radioTextObserve_written_frame (.inl h) .a seg _⟩,
    ⟨_, rfl, fun k => ?_, hbitmapB, hpassB, radioTextObserve_written_frame (.inl h) .b seg _⟩⟩
  · rw [radioTextObserve_written_rtByte_a (.inl h), State.rtByte_toggleChange_changed h]
  · rw [radioTextObserve_written_rtByte_b (.inl h), State.rtByte_toggleChange_changed h]

/-- Settles O27: the group is written into the buffer as it stands, since the toggle test changes nothing. -/
theorem firstSweepWritesSegment : Obligations.FirstSweepWritesSegment := by
  intro s seg c0 c1 c2 c3 hpass
  have hw : s.rtToggle ≠ s.rtToggle ∨ (s.rtToggle = s.rtToggle ∧ s.rtPass = .first) := .inr ⟨rfl, hpass⟩
  refine ⟨⟨_, rfl, fun k => ?_, radioTextObserve_first_rtBitmap rfl hpass,
      radioTextObserve_written_frame hw .a seg _⟩,
    ⟨_, rfl, fun k => ?_, radioTextObserve_first_rtBitmap rfl hpass, radioTextObserve_written_frame hw .b seg _⟩⟩
  · rw [radioTextObserve_written_rtByte_a hw, State.toggleChange_same rfl]
  · rw [radioTextObserve_written_rtByte_b hw, State.toggleChange_same rfl]

end Sys2Proof.Machine
end

section
/-! PROOF. The ignored groups: a ready group of any other number decodes to one of the 28 ignored operations, and those
do nothing but raise IgnoredInput (`43_ignored_groups.md` R170). -/
namespace Sys2Proof

/-- A ready group whose group number is neither 0 nor 2 is one of the 28 ignored operations (`40_classifier.md`
R105). -/
theorem decode_mem_ignoredOps {t : Transaction} (hrst : t.rst = false) (hready : t.ready = true)
    (h0 : (groupType t.b).gn ≠ 0) (h2 : (groupType t.b).gn ≠ 2) : decode t ∈ Instr.ignoredOps := by
  rw [decode_ready hrst hready, decodeGroup_ignored h0 h2]
  exact ignoredOf_mem h0 h2

end Sys2Proof

namespace Sys2Proof.Machine

/-- Raising IgnoredInput writes none of the seven registers (`60_exceptions.md` R191). -/
theorem State.takeIgnoredInput_sameRegisters (s : State) : s.SameRegisters s.takeIgnoredInput :=
  ⟨s.takeIgnoredInput_psCand, s.takeIgnoredInput_psConf, s.takeIgnoredInput_psPub,
    fun a => State.rtByte_congr s.takeIgnoredInput_rtBuf s.takeIgnoredInput_cfg a,
    s.takeIgnoredInput_rtBitmap, s.takeIgnoredInput_rtPass, s.takeIgnoredInput_rtToggle⟩

/-- Settles O15: the group decodes to an ignored operation, whose next state is the one that raising IgnoredInput
leaves. -/
theorem ignoredGroupChangesNothing : Obligations.IgnoredGroupChangesNothing := by
  intro s t hrst hready h0 h2
  have hign : decode t ∈ Instr.ignoredOps := decode_mem_ignoredOps hrst hready h0 h2
  have hstep : step (s.presentNext t) = .next s.takeIgnoredInput :=
    (step_presentNext s t).trans (exec_ignored hign s)
  exact ⟨_, hstep, s.takeIgnoredInput_sameRegisters, ⟨s.takeIgnoredInput_stream, s.takeIgnoredInput_cfg⟩,
    s.takeIgnoredInput_psEvent, s.takeIgnoredInput_rtEvent, s.takeIgnoredInput_label⟩

end Sys2Proof.Machine
end

section
/-! PROOF. VerificationMismatch: what raising it leaves, and the only operations that raise it (`60_exceptions.md`
R192). -/
namespace Sys2Proof.Machine

/-! ### The compare, byte by byte -/

/-- A version-A compare succeeds when all four bytes equal the stored ones (`42_radio_text.md` R144). -/
theorem State.memRead_segWidth_a_eq_iff (s : State) (a : Addr) (c0 c1 c2 c3 : Byte) :
    s.memRead a (segWidth .a) = [c0, c1, c2, c3] ↔
      s.rtByte a = c0 ∧ s.rtByte (a + 1) = c1 ∧ s.rtByte (a + 2) = c2 ∧ s.rtByte (a + 3) = c3 := by
  rw [segWidth, State.memRead_four]
  simp only [List.cons.injEq, and_true]

/-- A version-B compare succeeds when both bytes equal the stored ones (`42_radio_text.md` R144). -/
theorem State.memRead_segWidth_b_eq_iff (s : State) (a : Addr) (c0 c1 : Byte) :
    s.memRead a (segWidth .b) = [c0, c1] ↔ s.rtByte a = c0 ∧ s.rtByte (a + 1) = c1 := by
  rw [segWidth, State.memRead_two]
  simp only [List.cons.injEq, and_true]

/-! ### What a mismatch leaves -/

/-- Taking VerificationMismatch leaves the radio-text state cleared, RT_BUF blank at every address. -/
theorem State.takeVerificationMismatch_rtCleared (s : State) : s.takeVerificationMismatch.RtCleared :=
  ⟨State.rtByte_of_nil s.takeVerificationMismatch_rtBuf, s.takeVerificationMismatch_rtBitmap,
    s.takeVerificationMismatch_rtPass⟩

/-- A differing group of the verification sweep, with the flag unchanged, clears the text and raises the condition; no
event comes, and RT_TOGGLE, the service name and the input stay. -/
theorem radioTextObserve_mismatch_outcome {ver : Version} {seg : BitVec 4} {chars : List Byte} {s : State}
    (hpass : s.rtPass = .verify) (hdiff : s.memRead (rtAddr ver seg) (segWidth ver) ≠ chars) :
    let u := radioTextObserve ver seg s.rtToggle chars s
    u.RtCleared ∧ u.rtToggle = s.rtToggle ∧ u.rtEvent = none ∧ u.psEvent = none ∧
    u.label = ⟨.rt, some .verificationMismatch⟩ ∧ s.SameName u ∧ s.SameInput u := by
  rw [radioTextObserve_mismatch rfl hpass hdiff]
  exact ⟨s.takeVerificationMismatch_rtCleared, s.takeVerificationMismatch_rtToggle,
    s.takeVerificationMismatch_rtEvent, s.takeVerificationMismatch_psEvent, s.takeVerificationMismatch_label,
    ⟨s.takeVerificationMismatch_psCand, s.takeVerificationMismatch_psConf, s.takeVerificationMismatch_psPub⟩,
    ⟨s.takeVerificationMismatch_stream, s.takeVerificationMismatch_cfg⟩⟩

/-! ### What raises it -/

/-- Only the two radio-text operations raise VerificationMismatch, and only through their observation. -/
theorem exec_mismatch_cases {i : Instr} {s u : State} (hexec : exec i s = .next u)
    (hcond : u.label.cond = some .verificationMismatch) :
    (∃ tog seg c0 c1 c2 c3, i = .rt2a tog seg c0 c1 c2 c3 ∧
      (radioTextObserve .a seg tog [c0, c1, c2, c3] s).label.cond = some .verificationMismatch) ∨
    (∃ tog seg c0 c1, i = .rt2b tog seg c0 c1 ∧
      (radioTextObserve .b seg tog [c0, c1] s).label.cond = some .verificationMismatch) := by
  rcases exec_cases i s with ⟨_, hnext⟩ | ⟨_, hnext⟩ | ⟨seg, c0, c1, _, hnext⟩ |
    ⟨tog, seg, c0, c1, c2, c3, hi, hnext⟩ | ⟨tog, seg, c0, c1, hi, hnext⟩ | ⟨_, hnext⟩
  all_goals obtain rfl := Host.Outcome.next.inj (hexec.symm.trans hnext)
  · simp at hcond
  · simp at hcond
  · obtain ⟨_, _, _, _, _, hlabel, _⟩ := serviceNameObserve_frame seg c0 c1 s
    simp [hlabel] at hcond
  · exact .inl ⟨tog, seg, c0, c1, c2, c3, hi, hcond⟩
  · exact .inr ⟨tog, seg, c0, c1, hi, hcond⟩
  · simp at hcond

/-- Settles O30: a group with a differing byte fails the compare, whose outcome is the cleared text; conversely the
condition comes from a radio-text operation's observation, and that raises it only on a failed compare. -/
theorem verificationMismatchClearsText : Obligations.VerificationMismatchClearsText := by
  refine ⟨fun s seg c0 c1 c2 c3 hpass => ⟨fun hdiff => ⟨_, rfl, ?_⟩, fun hdiff => ⟨_, rfl, ?_⟩⟩,
    fun i s u hexec hcond => ?_⟩
  · exact radioTextObserve_mismatch_outcome hpass (mt (s.memRead_segWidth_a_eq_iff _ c0 c1 c2 c3).mp hdiff)
  · exact radioTextObserve_mismatch_outcome hpass (mt (s.memRead_segWidth_b_eq_iff _ c0 c1).mp hdiff)
  · rcases exec_mismatch_cases hexec hcond with
      ⟨tog, seg, c0, c1, c2, c3, rfl, hobs⟩ | ⟨tog, seg, c0, c1, rfl, hobs⟩
    · obtain ⟨rfl, hpass, hdiff⟩ := (radioTextObserve_cond_iff ..).mp hobs
      exact ⟨hpass, .inl ⟨seg, c0, c1, c2, c3, rfl, mt (s.memRead_segWidth_a_eq_iff _ c0 c1 c2 c3).mpr hdiff⟩⟩
    · obtain ⟨rfl, hpass, hdiff⟩ := (radioTextObserve_cond_iff ..).mp hobs
      exact ⟨hpass, .inr ⟨seg, c0, c1, rfl, mt (s.memRead_segWidth_b_eq_iff _ c0 c1).mpr hdiff⟩⟩

end Sys2Proof.Machine
end

section
/-! PROOF. The encoder and the decoder are inverse to each other (`30_encoding.md` R70, R80, R84). -/
namespace Sys2Proof

/-! ### Decode of encode -/

/-- The decoder reads an operation's operands back from the fields in which the encoder put them (`30_encoding.md`
R80, R84). -/
theorem decode_encode (i : Instr) : decode (encode i) = i := by
  cases i with
  | ps0a seg c0 c1 =>
    rw [encode, decode_ready rfl rfl, decodeGroup_ps0a]
    · simp [readyGroup]
    · exact groupType_blockPS .a seg
  | ps0b seg c0 c1 =>
    rw [encode, decode_ready rfl rfl, decodeGroup_ps0b]
    · simp [readyGroup]
    · exact groupType_blockPS .b seg
  | rt2a tog seg c0 c1 c2 c3 =>
    rw [encode, decode_ready rfl rfl, decodeGroup_rt2a]
    · simp [readyGroup]
    · exact groupType_blockRT .a tog seg
  | rt2b tog seg c0 c1 =>
    rw [encode, decode_ready rfl rfl, decodeGroup_rt2b]
    · simp [readyGroup]
    · exact groupType_blockRT .b tog seg
  | _ => rfl

/-- Settles O1: the layout of 66 bits is read back whole, so both readings are the one for blocks. -/
theorem decodeOfEncodeIsIdentity : Obligations.DecodeOfEncodeIsIdentity := by
  intro i
  refine ⟨decode_encode i, ?_⟩
  rw [decodeBits, encodeBits, Transaction.ofBits_toBits, decode_encode]

/-! ### A block B is the block of its fields, when its unread bits are zero -/

/-- Block B is the number of its group type above eleven bits (`30_encoding.md` R71, R77). -/
theorem append_groupType_number (b : Word) : ((groupType b).number ++ b.extractLsb' 0 11 : Word) = b := by
  rw [groupType_number]
  exact (BitVec.extractLsb'_append_extractLsb'_eq_extractLsb' (start₁ := 0) (len₁ := 11) rfl).trans
    BitVec.extractLsb'_eq_self

section BlockOfFields

variable {b : Word} {v : Version}

theorem blockPS_psSegField (htype : groupType b = ⟨0, v⟩) (hzero : b.extractLsb' 2 9 = 0#9) :
    blockPS v (psSegField b) = b := by
  have hsplit : ∀ seg, blockPS v seg = (GroupType.number ⟨0, v⟩ ++ (0#9 ++ seg : BitVec 11) : Word) := by
    cases v <;> decide
  have hlow : (0#9 ++ psSegField b : BitVec 11) = b.extractLsb' 0 11 := by
    rw [← hzero]
    exact BitVec.extractLsb'_append_extractLsb'_eq_extractLsb' (start₁ := 0) (len₁ := 2) rfl
  rw [hsplit, hlow, ← htype, append_groupType_number]

theorem blockRT_rtSegField (htype : groupType b = ⟨2, v⟩) (hzero : b.extractLsb' 5 6 = 0#6) :
    blockRT v (toggleField b) (rtSegField b) = b := by
  have hsplit : ∀ tog seg, blockRT v tog seg =
      (GroupType.number ⟨2, v⟩ ++ (0#6 ++ (BitVec.ofBool tog ++ seg : BitVec 5) : BitVec 11) : Word) := by
    cases v <;> decide
  have htog : BitVec.ofBool (toggleField b) = b.extractLsb' 4 1 := by
    ext i hi
    simp [toggleField, show i = 0 by omega]
  have hfields : (BitVec.ofBool (toggleField b) ++ rtSegField b : BitVec 5) = b.extractLsb' 0 5 := by
    rw [htog]
    exact BitVec.extractLsb'_append_extractLsb'_eq_extractLsb' (start₁ := 0) (len₁ := 4) rfl
  have hlow : (0#6 ++ b.extractLsb' 0 5 : BitVec 11) = b.extractLsb' 0 11 := by
    rw [← hzero]
    exact BitVec.extractLsb'_append_extractLsb'_eq_extractLsb' (start₁ := 0) (len₁ := 5) rfl
  rw [hsplit, hfields, hlow, ← htype, append_groupType_number]

theorem blockIGN_groupType (hzero : b.extractLsb' 0 11 = 0#11) :
    blockIGN (groupType b).gn (groupType b).ver = b := by
  conv_rhs => rw [← append_groupType_number b, hzero]
  rfl

end BlockOfFields

/-! ### Encode of decode -/

/-- The canonical transaction of an ignored operation has its group type in block B and nothing else (`30_encoding.md`
R76, R84). -/
theorem encode_ignoredOf {g : GroupType} (h0 : g.gn ≠ 0) (h2 : g.gn ≠ 2) :
    encode (ignoredOf g) = readyGroup (blockIGN g.gn g.ver) 0 0 := by
  obtain ⟨gn, v⟩ := g
  revert gn
  cases v <;> decide

section ReadyGroup

variable {t : Transaction} (hrst : t.rst = false) (hready : t.ready = true)
include hrst hready

/-- What `Transaction.canonical` asks of a ready group, by its group number (`30_encoding.md` R73 to R76, R84). -/
theorem canonical_readyGroup_iff :
    t.canonical = true ↔ t.a = 0 ∧
      if (groupType t.b).gn = 0 then t.b.extractLsb' 2 9 = 0 ∧ t.c = 0
      else if (groupType t.b).gn = 2 then t.b.extractLsb' 5 6 = 0 ∧ ((groupType t.b).ver = .b → t.c = 0)
      else t.b.extractLsb' 0 11 = 0 ∧ t.c = 0 ∧ t.d = 0 := by
  have hgn : t.b.extractLsb' 12 4 = (groupType t.b).gn := rfl
  have hver : (!t.b.getLsbD 11) = true ↔ (groupType t.b).ver ≠ .b := by
    rw [groupType]
    cases t.b.getLsbD 11 <;> simp
  simp only [Transaction.canonical, hrst, hready, hgn, beq_iff_eq, Bool.false_eq_true, if_false, if_true,
    Bool.and_eq_true]
  refine and_congr Iff.rfl ?_
  split
  · simp
  · split
    · simp only [Bool.and_eq_true, Bool.or_eq_true, beq_iff_eq, hver, imp_iff_not_or]
    · simp [and_assoc]

theorem eq_readyGroup (ha : t.a = 0) : t = readyGroup t.b t.c t.d := by
  obtain ⟨rst, ready, a, b, c, d⟩ := t
  simp_all [readyGroup]

/-- A canonical ready group is the encoding of what it decodes to. -/
theorem encode_decode_readyGroup (h : t.canonical = true) : encode (decode t) = t := by
  obtain ⟨ha, hzero⟩ := (canonical_readyGroup_iff hrst hready).mp h
  rw [decode_ready hrst hready, eq_comm]
  refine (eq_readyGroup hrst hready ha).trans ?_
  rcases hg : groupType t.b with ⟨gn, v⟩
  rw [hg] at hzero
  split at hzero
  case isTrue hgn =>
    obtain rfl : gn = 0 := hgn
    obtain ⟨hb, hc⟩ := hzero
    cases v
    · rw [decodeGroup_ps0a hg, encode, append_chars, blockPS_psSegField hg hb, hc]
    · rw [decodeGroup_ps0b hg, encode, append_chars, blockPS_psSegField hg hb, hc]
  case isFalse h0 =>
    split at hzero
    case isTrue hgn =>
      obtain rfl : gn = 2 := hgn
      obtain ⟨hb, hc⟩ := hzero
      cases v
      · rw [decodeGroup_rt2a hg, encode, append_chars, append_chars, blockRT_rtSegField hg hb]
      · rw [decodeGroup_rt2b hg, encode, append_chars, blockRT_rtSegField hg hb, hc rfl]
    case isFalse h2 =>
      obtain ⟨hb, hc, hd⟩ := hzero
      have h0' : (groupType t.b).gn ≠ 0 := hg ▸ h0
      have h2' : (groupType t.b).gn ≠ 2 := hg ▸ h2
      rw [decodeGroup_ignored h0' h2', encode_ignoredOf h0' h2', blockIGN_groupType hb, hc, hd]

end ReadyGroup

/-- A canonical transaction is the encoding of what it decodes to, its control bits included. -/
theorem encode_decode {t : Transaction} (h : t.canonical = true) : encode (decode t) = t := by
  cases hrst : t.rst with
  | true =>
    rw [decode_rst hrst]
    obtain ⟨rst, ready, a, b, c, d⟩ := t
    simp_all [Transaction.canonical, encode]
  | false =>
    cases hready : t.ready with
    | true => exact encode_decode_readyGroup hrst hready h
    | false =>
      rw [decode_idle hrst hready]
      obtain ⟨rst, ready, a, b, c, d⟩ := t
      simp_all [Transaction.canonical, encode]

theorem canonical_encode (i : Instr) : (encode i).canonical = true := by
  have hps : ∀ v seg, (blockPS v seg).extractLsb' 2 9 = 0 := by
    intro v; cases v <;> decide
  have hrt : ∀ v tog seg, (blockRT v tog seg).extractLsb' 5 6 = 0 := by
    intro v; cases v <;> decide
  cases i with
  | ps0a seg => exact (canonical_readyGroup_iff rfl rfl).mpr (by simp [encode, readyGroup, hps])
  | ps0b seg => exact (canonical_readyGroup_iff rfl rfl).mpr (by simp [encode, readyGroup, hps])
  | rt2a tog seg => exact (canonical_readyGroup_iff rfl rfl).mpr (by simp [encode, readyGroup, hrt])
  | rt2b tog seg => exact (canonical_readyGroup_iff rfl rfl).mpr (by simp [encode, readyGroup, hrt])
  | _ => rfl

/-- Settles O2: canonical means that the bits which the encoder leaves zero are zero; the decoder keeps the others. -/
theorem encodeOfDecodeIsCanonical : Obligations.EncodeOfDecodeIsCanonical :=
  ⟨fun _ => encode_decode, canonical_encode⟩

end Sys2Proof
end

section
/-! PROOF. The invariant of the reachable states holds after reset and after every step (`10_state.md` R34,
`60_exceptions.md` R191, R193, R197). -/
namespace Sys2Proof.Machine

/-! ### Ends of a step that meet the invariant -/

/-- The end of a step without condition and without event meets the invariant, for the classes of which the invariant
asks nothing more. -/
theorem State.quiet_inv {s : State} {k : StepClass} (hk : k ≠ .ign ∧ k ≠ .rst)
    (hw : Memory.wf s.cfg.rtBlank s.rtBuf) : Inv (s.quiet k) where
  memory := hw
  oneEvent := .inl rfl
  eventOrCondition h := absurd rfl h
  noMalformedIndex := nofun
  ignored := ⟨nofun, fun h => absurd h hk.1⟩
  published := nofun
  emitted := nofun
  mismatch := nofun
  afterReset h := absurd h hk.2

/-- RST ends with every register at its reset value (`70_reset_and_hazards.md` R221). -/
theorem State.resetRegisters_inv (s : State) : Inv (s.resetRegisters.quiet .rst) where
  memory := Memory.wf_nil _
  oneEvent := .inl rfl
  eventOrCondition h := absurd rfl h
  noMalformedIndex := nofun
  ignored := ⟨nofun, nofun⟩
  published := nofun
  emitted := nofun
  mismatch := nofun
  afterReset _ := ⟨rfl, rfl, rfl, ⟨State.rtByte_of_nil rfl, rfl, rfl⟩, rfl⟩

/-- Raising IgnoredInput meets the invariant (`60_exceptions.md` R191). -/
theorem State.takeIgnoredInput_inv {s : State} (hw : Memory.wf s.cfg.rtBlank s.rtBuf) : Inv s.takeIgnoredInput where
  memory := hw
  oneEvent := .inl rfl
  eventOrCondition _ := ⟨rfl, rfl⟩
  noMalformedIndex := nofun
  ignored := ⟨fun _ => rfl, fun _ => rfl⟩
  published := nofun
  emitted := nofun
  mismatch := nofun
  afterReset := nofun

/-- Raising VerificationMismatch meets the invariant: the radio-text state is cleared (`10_state.md` R34 (d)). -/
theorem State.takeVerificationMismatch_inv (s : State) : Inv s.takeVerificationMismatch where
  memory := Memory.wf_nil _
  oneEvent := .inl rfl
  eventOrCondition _ := ⟨rfl, rfl⟩
  noMalformedIndex := nofun
  ignored := ⟨nofun, nofun⟩
  published := nofun
  emitted := nofun
  mismatch _ := ⟨rfl, s.takeVerificationMismatch_rtCleared⟩
  afterReset := nofun

/-- A publish meets the invariant when PS_CONF equals PS_CAND (`10_state.md` R34 (c)). -/
theorem State.publish_inv {s : State} (hw : Memory.wf s.cfg.rtBlank s.rtBuf) (hconf : s.psConf = s.psCand) :
    Inv s.publish where
  memory := hw
  oneEvent := .inr rfl
  eventOrCondition h := absurd rfl h
  noMalformedIndex := nofun
  ignored := ⟨nofun, nofun⟩
  published name h := by
    obtain rfl : s.psConf = name := Option.some.inj h
    exact ⟨rfl, rfl, rfl, hconf.symm⟩
  emitted := nofun
  mismatch := nofun
  afterReset := nofun

/-- An emit meets the invariant: RT_BUF is not written, bitmap and pass are cleared (`10_state.md` R34 (f)). -/
theorem State.emit_inv {s : State} (hw : Memory.wf s.cfg.rtBlank s.rtBuf) :
    Inv ({ s with rtBitmap := 0, rtPass := .first }.endStep .rt none none (some s.rtEventValue)) where
  memory := hw
  oneEvent := .inl rfl
  eventOrCondition h := absurd rfl h
  noMalformedIndex := nofun
  ignored := ⟨nofun, nofun⟩
  published := nofun
  emitted text h := by
    obtain rfl : s.rtEventValue = text := Option.some.inj h
    exact ⟨rfl, rfl, rfl, rfl⟩
  mismatch := nofun
  afterReset := nofun

/-! ### The observations and the step -/

/-- A service-name observation ends quietly, or publishes a name that PS_CAND holds (`41_service_name.md` R123). -/
theorem serviceNameObserve_inv (seg : BitVec 2) (c0 c1 : Byte) {s : State}
    (hw : Memory.wf s.cfg.rtBlank s.rtBuf) : Inv (serviceNameObserve seg c0 c1 s) := by
  rcases serviceNameObserve_cases seg c0 c1 s with ⟨_, h⟩ | ⟨_, _, h⟩ | ⟨_, _, _, _, h⟩
  · rw [h]
    exact State.quiet_inv (by decide) hw
  · rw [h]
    exact State.quiet_inv (by decide) hw
  · rw [h]
    exact State.publish_inv (s := { s with psConf := s.psCand }) hw rfl

/-- A radio-text observation ends quietly, emits, or raises VerificationMismatch (`42_radio_text.md` R148). -/
theorem radioTextObserve_inv (ver : Version) (seg : BitVec 4) (tog : Bool) (chars : List Byte) {s : State}
    (hw : Memory.wf s.cfg.rtBlank s.rtBuf) : Inv (radioTextObserve ver seg tog chars s) := by
  have hwrite := State.wf_memWrite chars s (rtAddr ver seg) hw
  rw [← State.memWrite_cfg chars s (rtAddr ver seg)] at hwrite
  rcases radioText_kinds ver seg tog chars s with h | ⟨h, hp⟩ | ⟨h, hp, hm⟩ | ⟨h, hp, hm⟩
  · have hobs := radioTextObserve_wf ver seg tog chars hw
    rw [radioTextObserve_toggle h] at hobs ⊢
    exact State.quiet_inv (by decide) (by simpa using hobs)
  · rw [radioTextObserve_first h hp]
    split
    · exact State.quiet_inv (by decide) hwrite
    · exact State.quiet_inv (by decide) hwrite
  · rw [radioTextObserve_match h hp hm]
    split
    · exact State.emit_inv hw
    · exact State.quiet_inv (by decide) hw
  · rw [radioTextObserve_mismatch h hp hm]
    exact s.takeVerificationMismatch_inv

/-- Every operation establishes the invariant; of the state before, it needs only the canonical form of RT_BUF. -/
theorem exec_inv {i : Instr} {s u : State} (hw : Memory.wf s.cfg.rtBlank s.rtBuf) (hexec : exec i s = .next u) :
    Inv u := by
  rcases exec_cases i s with ⟨_, hnext⟩ | ⟨_, hnext⟩ | ⟨seg, c0, c1, _, hnext⟩ |
    ⟨tog, seg, c0, c1, c2, c3, _, hnext⟩ | ⟨tog, seg, c0, c1, _, hnext⟩ | ⟨_, hnext⟩
  all_goals obtain rfl := Host.Outcome.next.inj (hexec.symm.trans hnext)
  · exact s.resetRegisters_inv
  · exact State.quiet_inv (by decide) hw
  · exact serviceNameObserve_inv seg c0 c1 hw
  · exact radioTextObserve_inv .a seg tog _ hw
  · exact radioTextObserve_inv .b seg tog _ hw
  · exact State.takeIgnoredInput_inv hw

/-- Settles O40: a step is one operation on the state without its oldest transaction, which has the same RT_BUF. -/
theorem everyStepKeepsInv : Obligations.EveryStepKeepsInv := by
  intro s u hinv hstep
  obtain ⟨i, hi⟩ := step_eq_exec s
  exact exec_inv (s := { s with stream := s.stream.tail }) hinv.memory (hi.symm.trans hstep)

/-- Settles O41: the state after reset is what RST leaves from it. -/
theorem resetSatisfiesInv : Obligations.ResetSatisfiesInv :=
  State.reset.resetRegisters_inv

end Sys2Proof.Machine
end

section
/-! PROOF. The operation map partitions the operation words (`30_encoding.md` R80, R81). -/
namespace Sys2Proof

/-! ### Rows of ready groups -/

/-- Both parts of a concatenation are determined by it. -/
theorem bitVec_append_eq_append_iff {m n : Nat} {x x' : BitVec m} {y y' : BitVec n} :
    x ++ y = x' ++ y' ↔ x = x' ∧ y = y' := by
  refine ⟨fun h => ⟨?_, ?_⟩, fun ⟨hx, hy⟩ => by rw [hx, hy]⟩
  · simpa only [BitVec.extractLsb'_append_eq_left] using congrArg (BitVec.extractLsb' n m) h
  · simpa only [BitVec.extractLsb'_append_eq_right] using congrArg (BitVec.extractLsb' 0 n) h

/-- The pattern in the row of the ready groups whose type has number `n` (`30_encoding.md` R81). -/
def groupRowPattern (n : BitVec 5) : BitVec 18 := BitVec.ofBool false ++ BitVec.ofBool true ++ (n ++ 0#11 : Word)

/-- The mask of the group rows keeps the control bits and the number of the group type. -/
theorem Transaction.opWord_and_groupMask (t : Transaction) : t.opWord &&& 0x3F800#18 =
    BitVec.ofBool t.rst ++ BitVec.ofBool t.ready ++ ((groupType t.b).number ++ 0#11 : Word) := by
  have hmask : 0x3F800#18 = BitVec.allOnes 2 ++ (BitVec.allOnes 5 ++ 0#11 : Word) := by decide
  rw [Transaction.opWord, hmask, ← append_groupType_number t.b, BitVec.and_append, BitVec.and_append,
    append_groupType_number, BitVec.and_allOnes, BitVec.and_allOnes, BitVec.and_zero]

/-- The number of the group type in the pattern of a row. -/
def OpRow.groupNumber (r : OpRow) : BitVec 5 := r.pattern.extractLsb' 11 5

/-- A row of ready groups: its mask keeps the control bits and the group type, and its pattern is one group type. -/
def OpRow.IsGroupRow (r : OpRow) : Prop := r.mask = 0x3F800 ∧ r.pattern = groupRowPattern r.groupNumber

/-- A transaction fits a group row when it is a ready group of that row's type. -/
theorem fits_groupRow_iff {r : OpRow} (hr : r.IsGroupRow) (t : Transaction) :
    r.fits t = true ↔ t.rst = false ∧ t.ready = true ∧ (groupType t.b).number = r.groupNumber := by
  have hbool : ∀ x y : Bool, BitVec.ofBool x = BitVec.ofBool y ↔ x = y := by decide
  obtain ⟨hmask, hpattern⟩ := hr
  rw [OpRow.fits, beq_iff_eq, hmask, hpattern, groupRowPattern, BitVec.ofNat_eq_ofNat, t.opWord_and_groupMask,
    bitVec_append_eq_append_iff, bitVec_append_eq_append_iff, bitVec_append_eq_append_iff, hbool, hbool]
  simp [and_assoc]

/-- Every operation but RST and IDLE has a group row, and the ready groups of that row's type decode to it, up to its
operands. -/
theorem isGroupRow_row {i : Instr} (hrst : i ≠ .rst) (hidle : i ≠ .idle) : i.row.IsGroupRow ∧
    ∀ t : Transaction, (groupType t.b).number = i.row.groupNumber → (decodeGroup t).row = i.row := by
  cases i with
  | rst => exact absurd rfl hrst
  | idle => exact absurd rfl hidle
  | _ =>
    refine ⟨⟨rfl, by rw [OpRow.groupNumber, Instr.row]; rfl⟩, fun t h => ?_⟩
    rw [decodeGroup, h, OpRow.groupNumber, Instr.row]
    rfl

/-- No group type is without its row. -/
theorem exists_row_of_number (n : BitVec 5) : ∃ i : Instr, i ≠ .rst ∧ i ≠ .idle ∧ i.row.groupNumber = n := by
  have hops : ∀ n : BitVec 5, ∃ i ∈ [.ps0a 0 0 0, .ps0b 0 0 0, .rt2a false 0 0 0 0 0, .rt2b false 0 0 0] ++
      Instr.ignoredOps, i ≠ .rst ∧ i ≠ .idle ∧ i.row.groupNumber = n := by decide
  obtain ⟨i, _, hi⟩ := hops n
  exact ⟨i, hi⟩

/-- The row of a ready group's operation is the row of its group type. -/
theorem row_decodeGroup (t : Transaction) :
    (decodeGroup t).row.IsGroupRow ∧ (decodeGroup t).row.groupNumber = (groupType t.b).number := by
  obtain ⟨i, hrst, hidle, hnumber⟩ := exists_row_of_number (groupType t.b).number
  obtain ⟨hgroup, hdecode⟩ := isGroupRow_row hrst hidle
  rw [hdecode t hnumber.symm]
  exact ⟨hgroup, hnumber⟩

/-! ### The rows of RST and IDLE -/

/-- A row whose mask and pattern are zero below the control bits tests those alone. -/
theorem fits_controlRow_iff {r : OpRow} {mask pattern : BitVec 2} (hmask : r.mask = mask ++ 0#16)
    (hpattern : r.pattern = pattern ++ 0#16) (t : Transaction) :
    r.fits t = true ↔ BitVec.ofBool t.rst ++ BitVec.ofBool t.ready &&& mask = pattern := by
  rw [OpRow.fits, beq_iff_eq, hmask, hpattern, Transaction.opWord, BitVec.and_append, bitVec_append_eq_append_iff,
    BitVec.and_zero]
  exact and_iff_left rfl

theorem fits_row_rst_iff (t : Transaction) : Instr.rst.row.fits t = true ↔ t.rst = true := by
  have hbits : ∀ rst ready : Bool, BitVec.ofBool rst ++ BitVec.ofBool ready &&& 2#2 = 2#2 ↔ rst = true := by decide
  exact (fits_controlRow_iff (by decide) (by decide) t).trans (hbits t.rst t.ready)

theorem fits_row_idle_iff (t : Transaction) : Instr.idle.row.fits t = true ↔ t.rst = false ∧ t.ready = false := by
  have hbits : ∀ rst ready : Bool, BitVec.ofBool rst ++ BitVec.ofBool ready &&& 3#2 = 0#2 ↔
      rst = false ∧ ready = false := by decide
  exact (fits_controlRow_iff (by decide) (by decide) t).trans (hbits t.rst t.ready)

/-! ### The partition -/

/-- Every transaction fits the row of what it decodes to, in the order of priority of `30_encoding.md` R80. -/
theorem fits_row_decode (t : Transaction) : (decode t).row.fits t = true := by
  cases hrst : t.rst with
  | true => exact decode_rst hrst ▸ (fits_row_rst_iff t).mpr hrst
  | false =>
    cases hready : t.ready with
    | false => exact decode_idle hrst hready ▸ (fits_row_idle_iff t).mpr ⟨hrst, hready⟩
    | true =>
      obtain ⟨hgroup, hnumber⟩ := row_decodeGroup t
      exact decode_ready hrst hready ▸ (fits_groupRow_iff hgroup t).mpr ⟨hrst, hready, hnumber.symm⟩

/-- An operation whose row a transaction fits has the row of what the transaction decodes to. -/
theorem row_eq_of_fits {i : Instr} {t : Transaction} (h : i.row.fits t = true) : i.row = (decode t).row := by
  by_cases hi : i = .rst
  · subst hi
    rw [decode_rst ((fits_row_rst_iff t).mp h)]
  by_cases hi' : i = .idle
  · subst hi'
    obtain ⟨hrst, hready⟩ := (fits_row_idle_iff t).mp h
    rw [decode_idle hrst hready]
  obtain ⟨hgroup, hdecode⟩ := isGroupRow_row hi hi'
  obtain ⟨hrst, hready, hnumber⟩ := (fits_groupRow_iff hgroup t).mp h
  rw [decode_ready hrst hready, hdecode t hnumber]

/-- Settles O3: RST and IDLE have the rows that test the control bits alone, every other operation the row of its group
type. -/
theorem operationMapIsPartition : Obligations.OperationMapIsPartition :=
  fun t => ⟨fits_row_decode t, fun _ => row_eq_of_fits⟩

end Sys2Proof
end

section
/-! PROOF. The bits that decide the operation, and the operation of each ignored group type (`30_encoding.md` R71, R82;
`43_ignored_groups.md` R260 to R287). -/
namespace Sys2Proof

/-! ### Unread bits (`30_encoding.md` R71, R82) -/

/-- Two ready groups of service-name type decode alike when they agree in type, segment and block D. -/
theorem decodeGroup_congr_ps {t u : Transaction} (htype : groupType t.b = groupType u.b)
    (hgn : (groupType t.b).gn = 0) (hseg : psSegField t.b = psSegField u.b) (hd : t.d = u.d) :
    decodeGroup t = decodeGroup u := by
  rcases hu : groupType u.b with ⟨gn, v⟩
  obtain rfl : gn = 0 := by rw [← hgn, htype, hu]
  cases v
  · rw [decodeGroup_ps0a (htype.trans hu), decodeGroup_ps0a hu, hseg, hd]
  · rw [decodeGroup_ps0b (htype.trans hu), decodeGroup_ps0b hu, hseg, hd]

/-- The low five bits of block B hold the toggle flag and the radio-text segment (`30_encoding.md` R74, R75). -/
theorem rtFields_congr {b b' : Word} (h : b.extractLsb' 0 5 = b'.extractLsb' 0 5) :
    toggleField b = toggleField b' ∧ rtSegField b = rtSegField b' := by
  have hbit : ∀ i < 5, b.getLsbD i = b'.getLsbD i := by
    intro i hi
    simpa [BitVec.getLsbD_extractLsb', hi] using congrArg (BitVec.getLsbD · i) h
  refine ⟨hbit 4 (by omega), BitVec.eq_of_getLsbD_eq fun i hi => ?_⟩
  simpa [rtSegField, BitVec.getLsbD_extractLsb', hi] using hbit i (by omega)

/-- Two ready groups of ignored type decode alike when they agree in type. -/
theorem decodeGroup_congr_ignored {t u : Transaction} (htype : groupType t.b = groupType u.b)
    (h0 : (groupType t.b).gn ≠ 0) (h2 : (groupType t.b).gn ≠ 2) : decodeGroup t = decodeGroup u := by
  rw [decodeGroup_ignored h0 h2, htype]
  rw [htype] at h0 h2
  rw [decodeGroup_ignored h0 h2]

/-- Settles O4: the decoder reads the control bits, then the group type, then the fields of that type. -/
theorem unreadBitsNeverMatter : Obligations.UnreadBitsNeverMatter := by
  intro t u
  refine ⟨fun ht hu => ?_, fun ht hu htr hur => ?_, fun ht hu htr hur hnumber => ?_⟩
  · rw [decode_rst ht, decode_rst hu]
  · rw [decode_idle ht htr, decode_idle hu hur]
  have htype : groupType t.b = groupType u.b :=
    GroupType.eq_of_number_eq (by rw [groupType_number, groupType_number, hnumber])
  rw [decode_ready ht htr, decode_ready hu hur]
  refine ⟨fun hgn hseg hd => decodeGroup_congr_ps htype hgn hseg hd, fun hgn hver hlow hc hd => ?_,
    fun hgn hver hlow hd => ?_, fun h0 h2 => decodeGroup_congr_ignored htype h0 h2⟩
  · have hta : groupType t.b = ⟨2, .a⟩ := (groupType_eq_iff t.b 2 .a).mpr ⟨hgn, by rw [hver]; rfl⟩
    obtain ⟨htog, hseg⟩ := rtFields_congr hlow
    rw [decodeGroup_rt2a hta, decodeGroup_rt2a (htype.symm.trans hta), htog, hseg, hc, hd]
  · have htb : groupType t.b = ⟨2, .b⟩ := (groupType_eq_iff t.b 2 .b).mpr ⟨hgn, by rw [hver]; rfl⟩
    obtain ⟨htog, hseg⟩ := rtFields_congr hlow
    rw [decodeGroup_rt2b htb, decodeGroup_rt2b (htype.symm.trans htb), htog, hseg, hd]

/-- Settles O5: the classifier finds each word's type, and the fields are cut out of the word as written. -/
theorem writtenOutWordsDecode : Obligations.WrittenOutWordsDecode := by
  unfold Obligations.WrittenOutWordsDecode
  decide

end Sys2Proof

namespace Sys2Proof.Machine

/-! ### The 28 ignored operations (`43_ignored_groups.md` R260 to R287) -/

/-- A ready group of an ignored type decodes to that type's operation, whatever its other bits. -/
theorem decode_eq_ignoredOf {t : Transaction} (hrst : t.rst = false) (hready : t.ready = true) {g : GroupType}
    (htype : groupType t.b = g) (h0 : g.gn ≠ 0) (h2 : g.gn ≠ 2) : decode t = ignoredOf g := by
  subst htype
  rw [decode_ready hrst hready, decodeGroup_ignored h0 h2]

/-- Settles O16: each row of the list names the ignored operation of its group number and version, and what holds of
every ignored type holds of it. -/
theorem eachIgnoredOperationCompletes : Obligations.EachIgnoredOperationCompletes := by
  intro r hr
  have hrow : r.2.1 ≠ 0 ∧ r.2.1 ≠ 2 ∧ r.1 = ignoredOf ⟨r.2.1, if r.2.2 then .b else .a⟩ := by
    revert r
    decide
  obtain ⟨h0, h2, hop⟩ := hrow
  rw [hop]
  refine ⟨fun t hrst hready hgn hver => ?_, ?_, fun s => ⟨_, exec_ignored (ignoredOf_mem h0 h2) s,
    s.takeIgnoredInput_sameRegisters, ⟨rfl, rfl⟩, rfl, rfl, rfl⟩⟩
  · exact decode_eq_ignoredOf hrst hready ((groupType_eq_iff ..).mpr ⟨hgn, by rw [hver]⟩) h0 h2
  · rw [encode_ignoredOf h0 h2, readyGroup, blockIGN]
    cases r.2.2 <;> rfl

end Sys2Proof.Machine
end

section
/-! PROOF. One step, by class: the multiplexer, the poll, the queue, RST and IDLE (`00_scope.md` R9, `40_classifier.md`
R103, R106, `70_reset_and_hazards.md` R221). -/
namespace Sys2Proof.Machine

/-! ### The multiplexer (`40_classifier.md` R103) -/

/-- Settles O8: by the group number, and for radio text by the version, the group decodes to one operation, whose
operands are the fields named. -/
theorem multiplexerRunsOneArm : Obligations.MultiplexerRunsOneArm := by
  intro s t hrst hready
  rw [step_presentNext]
  split
  case isTrue h0 => exact (exec_decode_serviceName hrst hready h0).2 s
  case isFalse h0 =>
    split
    case isTrue h2 =>
      split
      case isTrue hver =>
        rw [decode_radioText_b hrst hready ((groupType_eq_iff t.b 2 .b).mpr ⟨h2, by rw [if_pos hver]⟩)]
        rfl
      case isFalse hver =>
        rw [decode_radioText_a hrst hready ((groupType_eq_iff t.b 2 .a).mpr ⟨h2, by rw [if_neg hver]⟩)]
        rfl
    case isFalse h2 => exact exec_ignored (decode_mem_ignoredOps hrst hready h0 h2) s

/-! ### Addresses, polls and the queue -/

/-- Settles O9: the products are those of the addresses' own lemmas, and a segment index has two or four bits. -/
theorem addressesAreInRangeAndAligned : Obligations.AddressesAreInRangeAndAligned := by
  refine ⟨fun seg => ⟨psOffset_toNat seg, ?_⟩, fun seg => ⟨rtAddr_a_toNat seg, ?_⟩, fun seg => ⟨rtAddr_b_toNat seg, ?_⟩⟩
  · rw [psOffset_toNat]
    omega
  · rw [rtAddr_a_toNat]
    omega
  · rw [rtAddr_b_toNat]
    omega

/-- Settles O11: the step's two cases, by whether a transaction is presented. -/
theorem stepRunsDecodedTransaction : Obligations.StepRunsDecodedTransaction :=
  ⟨fun _ _ _ h => step_cons h, fun _ h => step_nil h⟩

/-- Settles O10: a poll puts the snapshot's transaction at the end of the queue, where with nothing before it the next
step finds it; the transaction is made of the named slots alone. -/
theorem pollPresentsSnapshot : Obligations.PollPresentsSnapshot := by
  refine ⟨fun s rst x hempty => ?_, fun s rst x y hready ha hb hc hd => ?_⟩
  · have hqueue : (s.poll rst x).stream = [snapshotTransaction s.cfg rst x] := by
      rw [State.poll_stream, hempty, List.nil_append]
    have hrest : { s.poll rst x with stream := [] } = s := by rw [← hempty]; rfl
    rw [step_cons hqueue, hrest]
    rfl
  · have hsnapshot : snapshotTransaction s.cfg rst x = snapshotTransaction s.cfg rst y := by
      rw [snapshotTransaction, snapshotTransaction, hready, ha, hb, hc, hd]
    rw [State.poll, State.poll, hsnapshot]

/-! ### Every step answers (`00_scope.md` R9) -/

/-- The only condition that a radio-text observation raises is VerificationMismatch (`60_exceptions.md` R192). -/
theorem radioTextObserve_cond (ver : Version) (seg : BitVec 4) (tog : Bool) (chars : List Byte) (s : State) :
    (radioTextObserve ver seg tog chars s).label.cond = none ∨
    (radioTextObserve ver seg tog chars s).label.cond = some .verificationMismatch := by
  rcases radioText_kinds ver seg tog chars s with h | ⟨h, hp⟩ | ⟨h, hp, hm⟩ | ⟨h, hp, hm⟩
  · rw [radioTextObserve_toggle h]
    exact .inl rfl
  · rw [radioTextObserve_first h hp]
    split <;> exact .inl rfl
  · rw [radioTextObserve_match h hp hm]
    split <;> exact .inl rfl
  · rw [radioTextObserve_mismatch h hp hm]
    exact .inr rfl

theorem radioTextObserve_ne_malformedIndex (ver : Version) (seg : BitVec 4) (tog : Bool) (chars : List Byte)
    (s : State) : (radioTextObserve ver seg tog chars s).label.cond ≠ some .malformedIndex := by
  rcases radioTextObserve_cond ver seg tog chars s with h | h <;> rw [h] <;> decide

/-- No operation raises MalformedIndex (`60_exceptions.md` R193). -/
theorem exec_ne_malformedIndex {i : Instr} {s u : State} (hexec : exec i s = .next u) :
    u.label.cond ≠ some .malformedIndex := by
  rcases exec_cases i s with ⟨_, hnext⟩ | ⟨_, hnext⟩ | ⟨seg, c0, c1, _, hnext⟩ |
    ⟨tog, seg, c0, c1, c2, c3, _, hnext⟩ | ⟨tog, seg, c0, c1, _, hnext⟩ | ⟨_, hnext⟩
  all_goals obtain rfl := Host.Outcome.next.inj (hexec.symm.trans hnext)
  · exact nofun
  · exact nofun
  · obtain ⟨_, _, _, _, _, hlabel, _⟩ := serviceNameObserve_frame seg c0 c1 s
    rw [hlabel]
    exact nofun
  · exact radioTextObserve_ne_malformedIndex .a seg tog _ s
  · exact radioTextObserve_ne_malformedIndex .b seg tog _ s
  · rw [State.takeIgnoredInput_label]
    decide

/-- Every step answers a next state; it takes one transaction and keeps the parameters. -/
theorem step_next (s : State) : ∃ u, step s = .next u ∧ u.stream = s.stream.tail ∧ u.cfg = s.cfg ∧
    u.label.cond ≠ some .malformedIndex := by
  obtain ⟨i, hi⟩ := step_eq_exec s
  obtain ⟨u, hexec, hstream, hcfg⟩ := exec_next i { s with stream := s.stream.tail }
  exact ⟨u, hi.trans hexec, hstream, hcfg, exec_ne_malformedIndex hexec⟩

/-- Settles O12: a step is one operation on the state without its oldest transaction, and every operation answers a
next state. -/
theorem everyStepAnswersNext : Obligations.EveryStepAnswersNext := step_next

/-! ### RST and IDLE -/

/-- Settles O13: RST writes every register from the parameters, which it keeps, so a second one writes the same; the
decoder tests the reset bit first. -/
theorem rstRestoresEveryRegister : Obligations.RstRestoresEveryRegister :=
  fun s => ⟨⟨_, rfl, rfl, rfl, rfl, ⟨State.rtByte_of_nil rfl, rfl, rfl⟩, rfl, rfl, rfl, rfl, ⟨rfl, rfl⟩, rfl⟩,
    fun t hrst => by rw [step_presentNext, decode_rst hrst]⟩

/-- Settles O14: IDLE writes the outputs and the label only; without reset and ready the decoder answers IDLE. -/
theorem idleChangesNothing : Obligations.IdleChangesNothing :=
  fun s => ⟨⟨_, rfl, ⟨rfl, rfl, rfl, fun _ => rfl, rfl, rfl, rfl⟩, ⟨rfl, rfl⟩, rfl, rfl, rfl⟩,
    fun t hrst hready => by rw [step_presentNext, decode_idle hrst hready]⟩

/-- A buffer of eight equal bytes reads as that byte everywhere. -/
theorem nameGet_replicate (v : Byte) (i : NameIdx) : nameGet (Vector.replicate 8 v) i = v :=
  Vector.getElem_replicate _

/-- Settles O17: the three name buffers are eight zero bytes and RT_BUF has no cell, with RT_BLANK 0x20. -/
theorem resetHoldsDefaultValues : Obligations.ResetHoldsDefaultValues :=
  ⟨nameGet_replicate 0, nameGet_replicate 0, nameGet_replicate 0, State.rtByte_of_nil rfl, rfl, rfl, rfl, rfl, rfl⟩

end Sys2Proof.Machine
end

section
/-! PROOF. Runs: the events of a run, for either assembler, and what a run keeps that every step keeps. -/
namespace Sys2Proof.Machine

/-! ### The events of a run -/

/-- The events that one output gives in the first `n` steps from `s`, in order; `rtTrace` and `psTrace` are this for
the two outputs. -/
def eventTrace {α : Type} (event : State → Option α) : Nat → State → List α
  | 0, _ => []
  | n + 1, s =>
    match step s with
    | .next u => (event u).toList ++ eventTrace event n u
    | .fault _ => []
    | .refused _ => []

theorem eventTrace_succ {α : Type} {event : State → Option α} {s u : State} {n : Nat} (h : step s = .next u) :
    eventTrace event (n + 1) s = (event u).toList ++ eventTrace event n u := by
  rw [eventTrace, h]

theorem rtTrace_eq_eventTrace (n : Nat) : ∀ s, rtTrace n s = eventTrace State.rtEvent n s := by
  induction n with
  | zero => exact fun _ => rfl
  | succ n ih =>
    intro s
    obtain ⟨u, hstep, _⟩ := step_next s
    rw [rtTrace_succ hstep, eventTrace_succ hstep, ih]

theorem psTrace_eq_eventTrace (n : Nat) : ∀ s, psTrace n s = eventTrace State.psEvent n s := by
  induction n with
  | zero => exact fun _ => rfl
  | succ n ih =>
    intro s
    obtain ⟨u, hstep, _⟩ := step_next s
    rw [psTrace_succ hstep, eventTrace_succ hstep, ih]

/-! ### Induction over a run -/

/-- A property of the state and of the number of steps still to go that every step keeps, without event, holds at the
end of the run, and the run has no event. -/
theorem run_of_kept {α : Type} {event : State → Option α} {P : Nat → State → Prop}
    (hkept : ∀ n s u, P (n + 1) s → step s = .next u → event u = none ∧ P n u) (n : Nat) :
    ∀ s, P n s → eventTrace event n s = [] ∧ ∃ u, Host.Core.run Sys2Proof.core n s = .next u ∧ P 0 u := by
  induction n with
  | zero => exact fun s h => ⟨rfl, s, rfl, h⟩
  | succ n ih =>
    intro s h
    obtain ⟨u, hstep, _⟩ := step_next s
    obtain ⟨hnone, hu⟩ := hkept n s u h hstep
    rw [eventTrace_succ hstep, run_succ hstep, hnone]
    exact ih u hu

/-- When all transactions still to come select operations with a property that IDLE has, the next step runs such an
operation. -/
theorem step_exec_of_forall {Q : Instr → Prop} (hidle : Q .idle) {s : State} (h : ∀ t ∈ s.stream, Q (decode t)) :
    ∃ i, Q i ∧ step s = exec i { s with stream := s.stream.tail } := by
  refine ⟨decode s.fetch.1, ?_, by rw [step, State.fetch_snd]⟩
  cases hs : s.stream with
  | nil => rw [State.fetch_nil hs]; exact hidle
  | cons t rest => rw [State.fetch_cons hs]; exact h t (hs ▸ List.mem_cons_self)

/-- The same for a property of the registers that holds along every queue of operations with the property `Q`, which
IDLE has. -/
theorem run_of_kept_by_exec {α : Type} {event : State → Option α} {Q : Instr → Prop} {P : State → Prop}
    (hidle : Q .idle) (hstream : ∀ s rest, P s → P { s with stream := rest })
    (hexec : ∀ i s u, Q i → P s → exec i s = .next u → event u = none ∧ P u) {s : State}
    (hqueue : ∀ t ∈ s.stream, Q (decode t)) (hs : P s) (n : Nat) :
    eventTrace event n s = [] ∧ ∃ u, Host.Core.run Sys2Proof.core n s = .next u ∧ P u := by
  have hkept : ∀ (n : Nat) (s u : State), (P s ∧ ∀ t ∈ s.stream, Q (decode t)) → step s = .next u →
      event u = none ∧ P u ∧ ∀ t ∈ u.stream, Q (decode t) := by
    intro _ s u ⟨hs, hqueue⟩ hstep
    obtain ⟨i, hi, hnext⟩ := step_exec_of_forall hidle hqueue
    obtain ⟨v, hv, htail, _⟩ := step_next s
    obtain rfl := Host.Outcome.next.inj (hstep.symm.trans hv)
    obtain ⟨hnone, hu⟩ := hexec i _ u hi (hstream s _ hs) (hnext.symm.trans hstep)
    exact ⟨hnone, hu, fun t ht => hqueue t (List.mem_of_mem_tail (htail ▸ ht))⟩
  obtain ⟨htrace, u, hrun, hu, _⟩ := run_of_kept (P := fun _ s => P s ∧ ∀ t ∈ s.stream, Q (decode t)) hkept n s
    ⟨hs, hqueue⟩
  exact ⟨htrace, u, hrun, hu⟩

end Sys2Proof.Machine
end

section
/-! PROOF. The service name: confirmation, the publish test, and when a name is published (`41_service_name.md`). -/
namespace Sys2Proof.Machine

/-! ### Pairs -/

theorem nameGet_nameSetPair_first (x : NameBuf) (off : NameIdx) (c0 c1 : Byte) :
    nameGet (nameSetPair x off c0 c1) off = c0 := by
  rw [nameGet_nameSetPair, if_pos rfl]

theorem nameGet_nameSetPair_second (x : NameBuf) (off : NameIdx) (c0 c1 : Byte) :
    nameGet (nameSetPair x off c0 c1) (off + 1) = c1 := by
  rw [nameGet_nameSetPair, if_neg (by bv_omega), if_pos rfl]

/-! ### One observation -/

/-- After an observation PS_CAND holds the pair, on either branch, and is otherwise as before (`41_service_name.md`
R121, R122). -/
theorem serviceNameObserve_psCand (seg : BitVec 2) (c0 c1 : Byte) (s : State) :
    (serviceNameObserve seg c0 c1 s).psCand = nameSetPair s.psCand (psOffset seg) c0 c1 := by
  rcases serviceNameObserve_cases seg c0 c1 s with ⟨_, h⟩ | ⟨hm, _, h⟩ | ⟨hm, _, _, _, h⟩
  · rw [h]
    rfl
  · rw [h, nameSetPair_of_matches hm]
    rfl
  · rw [h, nameSetPair_of_matches hm]
    rfl

/-- Both service-name operations are an observation of their pair (`41_service_name.md` R124, R125). -/
theorem exec_serviceName {i : Instr} {seg : BitVec 2} {c0 c1 : Byte} (h : i = .ps0a seg c0 c1 ∨ i = .ps0b seg c0 c1)
    (s : State) : exec i s = .next (serviceNameObserve seg c0 c1 s) := by
  rcases h with rfl | rfl <;> rfl

/-- Settles O20: of the three outcomes of an observation two are a match, with the publish test failed and passed. -/
theorem publishTestDecidesEvent : Obligations.PublishTestDecidesEvent := by
  intro s seg c0 c1 h0 h1
  obtain ⟨hconf, hcand⟩ := serviceNameObserve_match ⟨h0, h1⟩
  refine ⟨_, rfl, rfl, fun i => by rw [hconf, nameGet_nameSetPair], hcand, ?_⟩
  rw [hconf, hcand]
  rcases serviceNameObserve_cases seg c0 c1 s with ⟨hm, _⟩ | ⟨_, htest, h⟩ | ⟨_, hseg, heq, hne, h⟩
  · exact absurd (pairMatches_iff.mpr ⟨h0, h1⟩) (hm ▸ Bool.false_ne_true)
  · refine ⟨fun hpass => absurd hpass htest, fun _ => ?_⟩
    rw [h]
    exact ⟨rfl, rfl⟩
  · refine ⟨fun _ => ?_, fun hfail => absurd ⟨hseg, heq, heq ▸ hne⟩ hfail⟩
    rw [h, heq]
    exact ⟨rfl, rfl⟩

/-- Settles O21: the first observation leaves the pair in PS_CAND, so the second is a match and copies it. -/
theorem twoSightingsConfirmPair : Obligations.TwoSightingsConfirmPair := by
  intro s seg c0 c1 i j hi hj
  have hmatch : nameGet (serviceNameObserve seg c0 c1 s).psCand (psOffset seg) = c0 ∧
      nameGet (serviceNameObserve seg c0 c1 s).psCand (psOffset seg + 1) = c1 := by
    rw [serviceNameObserve_psCand]
    exact ⟨nameGet_nameSetPair_first .., nameGet_nameSetPair_second ..⟩
  refine ⟨_, _, exec_serviceName hi s, exec_serviceName hj _, ?_⟩
  rw [serviceNameObserve_psCand, (serviceNameObserve_match hmatch).1]
  exact ⟨nameGet_nameSetPair_first .., nameGet_nameSetPair_second .., nameGet_nameSetPair_first ..,
    nameGet_nameSetPair_second ..⟩

/-! ### Who publishes -/

/-- What an operation can do to the service name: it is RST, or an observation, or it leaves the name alone and
publishes nothing (`40_classifier.md` R104). -/
theorem exec_name_cases {i : Instr} {s u : State} (hexec : exec i s = .next u) :
    (i = .rst ∧ u = s.resetRegisters.quiet .rst) ∨
    (∃ seg c0 c1, (i = .ps0a seg c0 c1 ∨ i = .ps0b seg c0 c1) ∧ u = serviceNameObserve seg c0 c1 s) ∨
    (u.psCand = s.psCand ∧ u.psConf = s.psConf ∧ u.psPub = s.psPub ∧ u.psEvent = none) := by
  rcases exec_cases i s with ⟨hi, hnext⟩ | ⟨_, hnext⟩ | ⟨seg, c0, c1, hi, hnext⟩ |
    ⟨tog, seg, c0, c1, c2, c3, _, hnext⟩ | ⟨tog, seg, c0, c1, _, hnext⟩ | ⟨_, hnext⟩
  all_goals obtain rfl := Host.Outcome.next.inj (hexec.symm.trans hnext)
  · exact .inl ⟨hi, rfl⟩
  · exact .inr (.inr ⟨rfl, rfl, rfl, rfl⟩)
  · exact .inr (.inl ⟨seg, c0, c1, hi, rfl⟩)
  · obtain ⟨hcand, hconf, hpub, hnone, _⟩ := radioTextObserve_frame .a seg tog [c0, c1, c2, c3] s
    exact .inr (.inr ⟨hcand, hconf, hpub, hnone⟩)
  · obtain ⟨hcand, hconf, hpub, hnone, _⟩ := radioTextObserve_frame .b seg tog [c0, c1] s
    exact .inr (.inr ⟨hcand, hconf, hpub, hnone⟩)
  · exact .inr (.inr ⟨rfl, rfl, rfl, rfl⟩)

/-- Only a service-name operation of segment 3 whose pair matches publishes, and only a name that PS_CAND holds whole
and that is not yet published; the three buffers then hold it (`41_service_name.md` R123). -/
theorem exec_publishes {i : Instr} {s u : State} {name : NameBuf} (hexec : exec i s = .next u)
    (hevent : u.psEvent = some name) :
    ∃ c0 c1, (i = .ps0a 3 c0 c1 ∨ i = .ps0b 3 c0 c1) ∧ pairMatches s.psCand 6 c0 c1 = true ∧ name ≠ s.psPub ∧
      s.psCand = name ∧ u = { s with psConf := name, psPub := name }.endStep .ps none (some name) none := by
  rcases exec_name_cases hexec with ⟨_, rfl⟩ | ⟨seg, c0, c1, hi, rfl⟩ | ⟨_, _, _, hnone⟩
  · exact nomatch hevent
  · rcases serviceNameObserve_cases seg c0 c1 s with ⟨_, h⟩ | ⟨_, _, h⟩ | ⟨hm, rfl, _, hne, h⟩
    all_goals rw [h] at hevent
    · exact nomatch hevent
    · exact nomatch hevent
    · obtain rfl : s.psCand = name := Option.some.inj hevent
      exact ⟨c0, c1, hi, hm, hne, rfl, h⟩
  · exact nomatch hnone.symm.trans hevent

/-- An operation that changes PS_PUB is RST, or it publishes. -/
theorem exec_psPub_ne {i : Instr} {s u : State} (hexec : exec i s = .next u) (hne : u.psPub ≠ s.psPub) :
    i = .rst ∨ ∃ name, u.psEvent = some name := by
  rcases exec_name_cases hexec with ⟨hi, _⟩ | ⟨seg, c0, c1, _, rfl⟩ | ⟨_, _, hpub, _⟩
  · exact .inl hi
  · rcases serviceNameObserve_cases seg c0 c1 s with ⟨_, h⟩ | ⟨_, _, h⟩ | ⟨_, _, _, _, h⟩
    all_goals rw [h] at hne ⊢
    · exact absurd rfl hne
    · exact absurd rfl hne
    · exact .inr ⟨s.psCand, rfl⟩
  · exact absurd hpub hne

/-- Settles O22: with nothing presented the step is IDLE, which publishes nothing; otherwise it is the operation of the
oldest transaction, which publishes on those conditions only. -/
theorem publishOnlyOnConfirmedLastSegment : Obligations.PublishOnlyOnConfirmedLastSegment := by
  intro s u name hstep hevent
  cases hs : s.stream with
  | nil =>
    obtain rfl := Host.Outcome.next.inj ((step_nil hs).symm.trans hstep)
    exact nomatch hevent
  | cons t rest =>
    obtain ⟨c0, c1, hi, hm, hne, hcand, rfl⟩ := exec_publishes ((step_cons hs).symm.trans hstep) hevent
    obtain ⟨h6, h7⟩ := pairMatches_iff.mp hm
    exact ⟨t, rest, c0, c1, rfl, hi, h6, h7, hne, rfl, rfl, hcand, hcand⟩

/-- Settles O23: a change of PS_PUB is RST or a publish, and both write what they are said to write. -/
theorem publishedNameChangesOnlyByPublishOrReset : Obligations.PublishedNameChangesOnlyByPublishOrReset := by
  intro s u hstep hne
  obtain ⟨i, hi⟩ := step_eq_exec s
  have hexec := hi.symm.trans hstep
  rcases exec_psPub_ne hexec hne with rfl | ⟨name, hevent⟩
  · obtain rfl := Host.Outcome.next.inj hexec
    exact .inl ⟨rfl, rfl⟩
  · obtain ⟨_, _, _, _, _, _, rfl⟩ := exec_publishes hexec hevent
    exact .inr ⟨rfl, rfl, rfl⟩

/-! ### A name that all three buffers hold -/

/-- The three buffers hold one name. -/
def State.HoldsName (s : State) (name : NameBuf) : Prop := s.psCand = name ∧ s.psConf = name ∧ s.psPub = name

/-- An operation that cannot disturb `name`: no RST, and no service-name operation but with a pair of `name`. -/
def KeepsName (name : NameBuf) (i : Instr) : Prop :=
  classOf i ≠ .rst ∧ (classOf i = .ps → ∃ seg, CarriesPair name seg i)

/-- The observation of segment `seg` of `name`. -/
def observePair (name : NameBuf) (seg : BitVec 2) (s : State) : State :=
  serviceNameObserve seg (nameGet name (psOffset seg)) (nameGet name (psOffset seg + 1)) s

theorem exec_carriesPair {name : NameBuf} {seg : BitVec 2} {i : Instr} (h : CarriesPair name seg i) (s : State) :
    exec i s = .next (observePair name seg s) :=
  exec_serviceName h s

/-- A pair of the name that the three buffers hold matches and changes nothing; it is not published again because PS_PUB
holds it already (`41_service_name.md` R127 (d)). -/
theorem observePair_of_holdsName {s : State} {name : NameBuf} (h : s.HoldsName name) (seg : BitVec 2) :
    observePair name seg s = s.quiet .ps := by
  obtain ⟨hcand, hconf, hpub⟩ := h
  have hm : pairMatches name (psOffset seg) (nameGet name (psOffset seg)) (nameGet name (psOffset seg + 1)) = true :=
    pairMatches_iff.mpr ⟨rfl, rfl⟩
  rcases serviceNameObserve_cases seg (nameGet name (psOffset seg)) (nameGet name (psOffset seg + 1)) s with
    ⟨hmis, _⟩ | ⟨_, _, h⟩ | ⟨_, _, _, hne, _⟩
  · rw [hcand, hm] at hmis
    exact nomatch hmis
  · rw [observePair, h, hconf, nameSetPair_of_matches hm, ← hconf]
  · exact absurd (hcand.trans hpub.symm) hne

theorem exec_holdsName {name : NameBuf} {i : Instr} {s u : State} (hi : KeepsName name i) (h : s.HoldsName name)
    (hexec : exec i s = .next u) : u.psEvent = none ∧ u.HoldsName name := by
  obtain ⟨hrst, hps⟩ := hi
  by_cases hclass : classOf i = .ps
  · obtain ⟨seg, hcarries⟩ := hps hclass
    have hnext := (exec_carriesPair hcarries s).trans (congrArg _ (observePair_of_holdsName h seg))
    obtain rfl := Host.Outcome.next.inj (hexec.symm.trans hnext)
    exact ⟨rfl, h⟩
  · obtain ⟨v, hnext, hcand, hconf, hpub, hnone, _⟩ := exec_keeps_name hclass hrst s
    obtain rfl := Host.Outcome.next.inj (hexec.symm.trans hnext)
    exact ⟨hnone, hcand.trans h.1, hconf.trans h.2.1, hpub.trans h.2.2⟩

/-- Settles O24: that the three buffers hold the name is kept by every step, and such a step publishes nothing. -/
theorem unchangedNameIsNeverRepublished : Obligations.UnchangedNameIsNeverRepublished := by
  intro s name hcand hconf hpub hstream n
  rw [psTrace_eq_eventTrace]
  exact (run_of_kept_by_exec (Q := KeepsName name) (P := (State.HoldsName · name)) ⟨nofun, nofun⟩ (fun _ _ h => h)
    (fun _ _ _ => exec_holdsName) hstream ⟨hcand, hconf, hpub⟩ n).1

/-! ### A new name, pair by pair -/

/-- `x` with the pair of segment `seg` taken from `name`. -/
def copyPair (name : NameBuf) (seg : BitVec 2) (x : NameBuf) : NameBuf :=
  nameSetPair x (psOffset seg) (nameGet name (psOffset seg)) (nameGet name (psOffset seg + 1))

theorem nameGet_copyPair (name : NameBuf) (seg : BitVec 2) (x : NameBuf) (i : NameIdx) :
    nameGet (copyPair name seg x) i =
      if i = psOffset seg ∨ i = psOffset seg + 1 then nameGet name i else nameGet x i := by
  rw [copyPair, nameGet_nameSetPair]
  by_cases h0 : i = psOffset seg
  · rw [if_pos h0, if_pos (.inl h0), h0]
  · by_cases h1 : i = psOffset seg + 1
    · rw [if_neg h0, if_pos h1, if_pos (.inr h1), h1]
    · rw [if_neg h0, if_neg h1, if_neg (by tauto)]

/-- The four pairs are the whole name. -/
theorem copyPair_all (name x : NameBuf) :
    copyPair name 3 (copyPair name 2 (copyPair name 1 (copyPair name 0 x))) = name := by
  refine nameBuf_ext fun i => ?_
  simp only [nameGet_copyPair]
  have hpairs : ∀ i : NameIdx, (i = psOffset 0 ∨ i = psOffset 0 + 1) ∨ (i = psOffset 1 ∨ i = psOffset 1 + 1) ∨
      (i = psOffset 2 ∨ i = psOffset 2 + 1) ∨ (i = psOffset 3 ∨ i = psOffset 3 + 1) := by decide
  rcases hpairs i with h | h | h | h
  all_goals simp only [if_pos h, ite_self]

theorem copyPair_copyPair (name : NameBuf) (seg : BitVec 2) (x : NameBuf) :
    copyPair name seg (copyPair name seg x) = copyPair name seg x := by
  refine nameBuf_ext fun i => ?_
  simp only [nameGet_copyPair]
  split <;> rfl

theorem observePair_psCand (name : NameBuf) (seg : BitVec 2) (s : State) :
    (observePair name seg s).psCand = copyPair name seg s.psCand :=
  serviceNameObserve_psCand ..

/-- The pair is copied into PS_CONF when PS_CAND holds it already (`41_service_name.md` R121, R122). -/
theorem observePair_psConf (name : NameBuf) (seg : BitVec 2) (s : State) :
    (observePair name seg s).psConf =
      if nameGet s.psCand (psOffset seg) = nameGet name (psOffset seg) ∧
          nameGet s.psCand (psOffset seg + 1) = nameGet name (psOffset seg + 1) then copyPair name seg s.psConf
      else s.psConf := by
  split
  case isTrue hmatch => exact (serviceNameObserve_match hmatch).1
  case isFalse hmis => rw [observePair, serviceNameObserve_mismatch hmis]; rfl

/-- Seen twice in a row, the pair of a segment stands in PS_CAND and in PS_CONF (`41_service_name.md` R127 (a)). -/
theorem observePair_twice (name : NameBuf) (seg : BitVec 2) (s : State) (rest : List Transaction) :
    let u := observePair name seg { observePair name seg s with stream := rest }
    u.psCand = copyPair name seg s.psCand ∧ u.psConf = copyPair name seg s.psConf := by
  refine ⟨?_, ?_⟩
  · rw [observePair_psCand]
    exact (congrArg _ (observePair_psCand name seg s)).trans (copyPair_copyPair name seg s.psCand)
  · rw [observePair_psConf]
    simp only [observePair_psCand, observePair_psConf name seg s]
    rw [if_pos ⟨nameGet_nameSetPair_first .., nameGet_nameSetPair_second ..⟩]
    split
    · exact copyPair_copyPair name seg s.psConf
    · rfl

/-- A pair of another segment than 3 is never published (`41_service_name.md` R123). -/
theorem observePair_quiet {seg : BitVec 2} (hseg : seg ≠ 3) (name : NameBuf) (s : State) :
    (observePair name seg s).psEvent = none ∧ (observePair name seg s).psPub = s.psPub := by
  rcases serviceNameObserve_cases seg (nameGet name (psOffset seg)) (nameGet name (psOffset seg + 1)) s with
    ⟨_, h⟩ | ⟨_, _, h⟩ | ⟨_, hlast, _⟩
  · rw [observePair, h]
    exact ⟨rfl, rfl⟩
  · rw [observePair, h]
    exact ⟨rfl, rfl⟩
  · exact absurd hlast hseg

/-- The last pair completes the name and publishes it, when PS_CAND holds the name and PS_PUB does not
(`41_service_name.md` R123). -/
theorem observePair_publishes {name : NameBuf} {s : State} (hcand : s.psCand = name)
    (hconf : copyPair name 3 s.psConf = name) (hpub : s.psPub ≠ name) :
    (observePair name 3 s).psEvent = some name := by
  rcases serviceNameObserve_cases 3 (nameGet name (psOffset 3)) (nameGet name (psOffset 3 + 1)) s with
    ⟨hmis, _⟩ | ⟨_, htest, _⟩ | ⟨_, _, _, _, h⟩
  · rw [hcand, pairMatches_iff.mpr ⟨rfl, rfl⟩] at hmis
    exact nomatch hmis
  · exact absurd ⟨rfl, hconf.trans hcand.symm, fun h => hpub (h.symm.trans hconf)⟩ htest
  · rw [observePair, h, ← hcand]
    rfl

/-- When the operations to come carry pairs of `name`, the next step observes the first of them. -/
theorem step_of_carriesPairs {name : NameBuf} {seg : BitVec 2} {segs : List (BitVec 2)} {s : State} {n : Nat}
    (h : List.Forall₂ (CarriesPair name) (seg :: segs) ((s.stream.take (n + 1)).map decode)) :
    ∃ u rest, step s = .next u ∧ u = observePair name seg { s with stream := rest } ∧
      List.Forall₂ (CarriesPair name) segs ((u.stream.take n).map decode) := by
  obtain ⟨i, l, hi, hl, hqueue⟩ := List.forall₂_cons_left_iff.mp h
  obtain ⟨rest, hstep, hrest⟩ := step_of_take_decode hqueue
  obtain ⟨_, _, _, _, _, _, hstream, _⟩ := serviceNameObserve_frame seg (nameGet name (psOffset seg))
    (nameGet name (psOffset seg + 1)) { s with stream := rest }
  refine ⟨_, rest, hstep.trans (exec_carriesPair hi _), rfl, ?_⟩
  rw [observePair, hstream, hrest]
  exact hl

/-- Two sightings of a segment other than 3 confirm its pair and publish nothing. -/
theorem psTrace_pair_twice {name : NameBuf} {seg : BitVec 2} (hseg : seg ≠ 3) {segs : List (BitVec 2)} {s : State}
    {n : Nat} (h : List.Forall₂ (CarriesPair name) (seg :: seg :: segs) ((s.stream.take (n + 2)).map decode)) :
    ∃ v, (∀ m, psTrace (m + 2) s = psTrace m v) ∧ v.psCand = copyPair name seg s.psCand ∧
      v.psConf = copyPair name seg s.psConf ∧ v.psPub = s.psPub ∧
      List.Forall₂ (CarriesPair name) segs ((v.stream.take n).map decode) := by
  obtain ⟨u, rest, hu, hobs, hqueue⟩ := step_of_carriesPairs h
  obtain ⟨v, rest', hv, hobs', hqueue'⟩ := step_of_carriesPairs hqueue
  obtain ⟨hnone, hpub⟩ := hobs ▸ observePair_quiet hseg name { s with stream := rest }
  obtain ⟨hnone', hpub'⟩ := hobs' ▸ observePair_quiet hseg name { u with stream := rest' }
  obtain ⟨hcand, hconf⟩ := observePair_twice name seg { s with stream := rest } rest'
  rw [← hobs, ← hobs'] at hcand hconf
  refine ⟨v, fun m => ?_, hcand, hconf, hpub'.trans hpub, hqueue'⟩
  rw [psTrace_succ hu, psTrace_succ hv, hnone, hnone']
  rfl

/-- Settles O25: after two sightings of segments 0, 1 and 2 only the last pair is missing; its first sighting is no
match, so it makes PS_CAND the name, and its second completes PS_CONF and publishes. -/
theorem nameSeenTwiceIsPublishedOnce : Obligations.NameSeenTwiceIsPublishedOnce := by
  intro s name hpub hlast hqueue
  obtain ⟨s0, htrace0, hcand0, hconf0, hpub0, hqueue0⟩ := psTrace_pair_twice (by decide) hqueue
  obtain ⟨s1, htrace1, hcand1, hconf1, hpub1, hqueue1⟩ := psTrace_pair_twice (by decide) hqueue0
  obtain ⟨s2, htrace2, hcand2, hconf2, hpub2, hqueue2⟩ := psTrace_pair_twice (by decide) hqueue1
  obtain ⟨u, rest, hu, hobs, hqueue3⟩ := step_of_carriesPairs hqueue2
  obtain ⟨v, rest', hv, hobs', _⟩ := step_of_carriesPairs hqueue3
  rw [hcand1, hcand0] at hcand2
  rw [hconf1, hconf0] at hconf2
  rw [hpub1, hpub0] at hpub2
  have hmis : ¬ (nameGet s2.psCand (psOffset 3) = nameGet name (psOffset 3) ∧
      nameGet s2.psCand (psOffset 3 + 1) = nameGet name (psOffset 3 + 1)) := by
    rw [hcand2]
    simp only [nameGet_copyPair]
    exact hlast
  have hu' : u = { s2 with stream := rest, psCand := copyPair name 3 s2.psCand }.quiet .ps :=
    hobs.trans (serviceNameObserve_mismatch (s := { s2 with stream := rest }) hmis)
  have hevent : v.psEvent = some name := by
    rw [hobs']
    refine observePair_publishes ?_ ?_ ?_
    · rw [hu']
      show copyPair name 3 s2.psCand = name
      rw [hcand2, copyPair_all]
    · rw [hu']
      show copyPair name 3 s2.psConf = name
      rw [hconf2, copyPair_all]
    · rw [hu']
      show s2.psPub ≠ name
      rw [hpub2]
      exact hpub
  have hnone : u.psEvent = none := by rw [hu']; rfl
  rw [htrace0, htrace1, htrace2, htrace0, htrace1, htrace2, psTrace_succ hu, psTrace_succ hu, psTrace_succ hv, hnone,
    hevent]
  exact ⟨rfl, rfl⟩

end Sys2Proof.Machine
end

section
/-! PROOF. The radio text, one observation: the ends of the two sweeps, and what can begin a verification sweep, end it,
write the buffer or emit (`42_radio_text.md` R144 to R148). -/
namespace Sys2Proof.Machine

/-! ### The ends of the sweeps -/

/-- The end of a first sweep (`42_radio_text.md` R145, R146): at the version's target the verification sweep begins with
an empty bitmap, otherwise the first sweep goes on. -/
theorem radioTextObserve_first_end {s : State} (hpass : s.rtPass = .first) (ver : Version) (seg : BitVec 4)
    (chars : List Byte) :
    let u := radioTextObserve ver seg s.rtToggle chars s
    (s.rtBitmap ||| segBit seg = rtTarget ver → u.rtBitmap = 0 ∧ u.rtPass = .verify) ∧
    (s.rtBitmap ||| segBit seg ≠ rtTarget ver → u.rtBitmap = s.rtBitmap ||| segBit seg ∧ u.rtPass = .first) := by
  rw [radioTextObserve_first rfl hpass]
  refine ⟨fun htarget => ?_, fun hopen => ?_⟩
  · rw [if_pos htarget]
    exact ⟨rfl, rfl⟩
  · rw [if_neg hopen]
    simp [hpass]

/-- Settles O28: the version's target is its literal. -/
theorem firstSweepEndsAtTarget : Obligations.FirstSweepEndsAtTarget :=
  fun _ seg c0 c1 c2 c3 hpass => ⟨⟨_, rfl, radioTextObserve_first_end hpass .a seg [c0, c1, c2, c3]⟩,
    ⟨_, rfl, radioTextObserve_first_end hpass .b seg [c0, c1]⟩⟩

/-- The value of a text event is the 64 bytes in address order and the terminator (`42_radio_text.md` R147). -/
theorem State.rtEventValue_spec (s : State) : s.rtEventValue[64] = 0x00 ∧
    ∀ (k : Nat) (hk : k < 64), s.rtEventValue[k] = s.rtByte (BitVec.ofNat 6 k) := by
  refine ⟨Vector.getElem_push_eq, fun k hk => ?_⟩
  exact (Vector.getElem_push_lt hk).trans (s.rtText_get k hk)

/-- A matching group of the verification sweep (`42_radio_text.md` R144, R145, R147) writes no byte; at the version's
target it emits the text and clears bitmap and pass, otherwise it sets its bit. -/
theorem radioTextObserve_match_end {s : State} (hpass : s.rtPass = .verify) {ver : Version} {seg : BitVec 4}
    {chars : List Byte} (hmatch : s.memRead (rtAddr ver seg) (segWidth ver) = chars) :
    let u := radioTextObserve ver seg s.rtToggle chars s
    (∀ k, u.rtByte k = s.rtByte k) ∧ u.rtToggle = s.rtToggle ∧ u.psEvent = none ∧ u.label = ⟨.rt, none⟩ ∧
    s.SameName u ∧ s.SameInput u ∧
    (s.rtBitmap ||| segBit seg = rtTarget ver → u.rtBitmap = 0 ∧ u.rtPass = .first ∧
      ∃ x : TextEvent, u.rtEvent = some x ∧ x[64] = 0x00 ∧
        ∀ (k : Nat) (hk : k < 64), x[k] = s.rtByte (BitVec.ofNat 6 k)) ∧
    (s.rtBitmap ||| segBit seg ≠ rtTarget ver →
      u.rtBitmap = s.rtBitmap ||| segBit seg ∧ u.rtPass = .verify ∧ u.rtEvent = none) := by
  rw [radioTextObserve_match rfl hpass hmatch]
  split
  case isTrue htarget =>
    exact ⟨fun _ => rfl, rfl, rfl, rfl, ⟨rfl, rfl, rfl⟩, ⟨rfl, rfl⟩,
      fun _ => ⟨rfl, rfl, s.rtEventValue, rfl, s.rtEventValue_spec⟩, fun hopen => absurd htarget hopen⟩
  case isFalse hopen =>
    exact ⟨fun _ => rfl, rfl, rfl, rfl, ⟨rfl, rfl, rfl⟩, ⟨rfl, rfl⟩, fun htarget => absurd htarget hopen,
      fun _ => ⟨rfl, hpass, rfl⟩⟩

/-- Settles O29: a group that carries the stored bytes passes the compare. -/
theorem verificationMatchCompletesOrMarks : Obligations.VerificationMatchCompletesOrMarks :=
  fun s _ hpass => ⟨⟨_, rfl, radioTextObserve_match_end hpass (s.memRead_four _)⟩,
    ⟨_, rfl, radioTextObserve_match_end hpass (s.memRead_two _)⟩⟩

/-! ### What an operation can do to the radio text -/

/-- The radio-text operation of version `ver` with segment, flag and characters. -/
def IsTextGroup (ver : Version) (seg : BitVec 4) (tog : Bool) (chars : List Byte) (i : Instr) : Prop :=
  (ver = .a ∧ ∃ c0 c1 c2 c3, chars = [c0, c1, c2, c3] ∧ i = .rt2a tog seg c0 c1 c2 c3) ∨
  (ver = .b ∧ ∃ c0 c1, chars = [c0, c1] ∧ i = .rt2b tog seg c0 c1)

/-- What an operation can do to the radio text: it is RST, or an observation, or it leaves the text alone and emits
nothing (`40_classifier.md` R104). -/
theorem exec_text_cases {i : Instr} {s u : State} (hexec : exec i s = .next u) :
    (i = .rst ∧ u = s.resetRegisters.quiet .rst) ∨
    (∃ ver seg tog chars, IsTextGroup ver seg tog chars i ∧ u = radioTextObserve ver seg tog chars s) ∨
    (classOf i ≠ .rt ∧ (∀ a, u.rtByte a = s.rtByte a) ∧ u.rtBitmap = s.rtBitmap ∧ u.rtPass = s.rtPass ∧
      u.rtToggle = s.rtToggle ∧ u.rtEvent = none) := by
  rcases exec_cases i s with ⟨hi, hnext⟩ | ⟨hi, hnext⟩ | ⟨seg, c0, c1, hi, hnext⟩ |
    ⟨tog, seg, c0, c1, c2, c3, hi, hnext⟩ | ⟨tog, seg, c0, c1, hi, hnext⟩ | ⟨hi, hnext⟩
  all_goals obtain rfl := Host.Outcome.next.inj (hexec.symm.trans hnext)
  · exact .inl ⟨hi, rfl⟩
  · exact .inr (.inr ⟨hi ▸ nofun, fun _ => rfl, rfl, rfl, rfl, rfl⟩)
  · obtain ⟨hbytes, hbitmap, hpass, htoggle⟩ := serviceNameObserve_sameText seg c0 c1 s
    obtain ⟨_, _, _, _, hnone, _⟩ := serviceNameObserve_frame seg c0 c1 s
    exact .inr (.inr ⟨by rcases hi with rfl | rfl <;> exact nofun, hbytes, hbitmap, hpass, htoggle, hnone⟩)
  · exact .inr (.inl ⟨.a, seg, tog, _, .inl ⟨rfl, c0, c1, c2, c3, rfl, hi⟩, rfl⟩)
  · exact .inr (.inl ⟨.b, seg, tog, _, .inr ⟨rfl, c0, c1, rfl, hi⟩, rfl⟩)
  · have hign : ∀ i ∈ Instr.ignoredOps, classOf i ≠ .rt := by decide
    exact .inr (.inr ⟨hign i hi, fun _ => rfl, rfl, rfl, rfl, rfl⟩)

/-- RT_PASS goes to 1 only at the target of the group's version, and the bitmap is then empty (`42_radio_text.md`
R146). -/
theorem radioTextObserve_begins_verify {ver : Version} {seg : BitVec 4} {tog : Bool} {chars : List Byte} {s : State}
    (hpass : s.rtPass = .first) (hverify : (radioTextObserve ver seg tog chars s).rtPass = .verify) :
    (radioTextObserve ver seg tog chars s).rtBitmap = 0 ∧ tog = s.rtToggle ∧
    s.rtBitmap ||| segBit seg = rtTarget ver := by
  by_cases h : tog = s.rtToggle
  · subst h
    obtain ⟨hend, hopen⟩ := radioTextObserve_first_end hpass ver seg chars
    by_cases htarget : s.rtBitmap ||| segBit seg = rtTarget ver
    · exact ⟨(hend htarget).1, rfl, htarget⟩
    · exact nomatch (hopen htarget).2.symm.trans hverify
  · exact nomatch (radioTextObserve_toggle_sweep h ver seg chars).2.symm.trans hverify

/-- RT_PASS goes back to 0 only with an emitted text, a mismatch or a toggle change (`42_radio_text.md` R148). -/
theorem radioTextObserve_ends_verify {ver : Version} {seg : BitVec 4} {tog : Bool} {chars : List Byte} {s : State}
    (hpass : s.rtPass = .verify) (hfirst : (radioTextObserve ver seg tog chars s).rtPass = .first) :
    (radioTextObserve ver seg tog chars s).rtEvent ≠ none ∨
    (radioTextObserve ver seg tog chars s).label.cond = some .verificationMismatch ∨ tog ≠ s.rtToggle := by
  rcases radioText_kinds ver seg tog chars s with h | ⟨_, hp⟩ | ⟨rfl, _, hm⟩ | ⟨h, hp, hm⟩
  · exact .inr (.inr h)
  · exact nomatch hp.symm.trans hpass
  · obtain ⟨_, _, _, _, _, _, hend, hopen⟩ := radioTextObserve_match_end hpass hm
    by_cases htarget : s.rtBitmap ||| segBit seg = rtTarget ver
    · obtain ⟨_, _, x, hx, _⟩ := hend htarget
      exact .inl (hx ▸ nofun)
    · exact nomatch hfirst.symm.trans (hopen htarget).2.1
  · exact .inr (.inl ((radioTextObserve_cond_iff ver seg tog chars s).mpr ⟨h, hp, hm⟩))

/-- Settles O31: an observation is the only operation that sets RT_PASS, and RST the only other one that clears it. -/
theorem passCounterTransitions : Obligations.PassCounterTransitions := by
  intro i s u hexec
  rcases exec_text_cases hexec with ⟨_, rfl⟩ | ⟨ver, seg, tog, chars, hi, rfl⟩ | ⟨_, _, _, hkept, _⟩
  · exact ⟨nofun, fun _ _ => .inr (.inr (.inr rfl))⟩
  · refine ⟨fun hfirst hverify => ?_, fun hverify hfirst => ?_⟩
    · obtain ⟨hbitmap, rfl, htarget⟩ := radioTextObserve_begins_verify hfirst hverify
      refine ⟨hbitmap, ?_⟩
      rcases hi with ⟨rfl, c0, c1, c2, c3, _, hi⟩ | ⟨rfl, c0, c1, _, hi⟩
      · exact .inl ⟨seg, c0, c1, c2, c3, hi, htarget⟩
      · exact .inr ⟨seg, c0, c1, hi, htarget⟩
    · obtain ⟨_, _, _, _, hclass, htoggle, _⟩ := radioTextObserve_frame ver seg tog chars s
      rcases radioTextObserve_ends_verify hverify hfirst with h | h | h
      · exact .inl h
      · exact .inr (.inl h)
      · exact .inr (.inr (.inl ⟨hclass, fun e => h (htoggle.symm.trans e)⟩))
  · rw [hkept]
    refine ⟨fun hfirst hverify => ?_, fun hverify hfirst => ?_⟩
    all_goals exact nomatch hfirst.symm.trans hverify

/-- Settles O33: a matching group writes no byte, and neither does an operation of another class. -/
theorem verificationSweepNeverWritesText : Obligations.VerificationSweepNeverWritesText := by
  intro i s u a hexec hverify hchanged
  rcases exec_text_cases hexec with ⟨_, rfl⟩ | ⟨ver, seg, tog, chars, _, rfl⟩ | ⟨_, hkept, _⟩
  · exact .inl rfl
  · rcases radioText_kinds ver seg tog chars s with h | ⟨_, hp⟩ | ⟨rfl, hp, hm⟩ | ⟨h, hp, hm⟩
    · obtain ⟨_, _, _, _, hclass, htoggle, _⟩ := radioTextObserve_frame ver seg tog chars s
      exact .inr (.inr ⟨hclass, fun e => h (htoggle.symm.trans e)⟩)
    · exact nomatch hp.symm.trans hverify
    · exact absurd ((radioTextObserve_match_end hp hm).1 a) hchanged
    · exact .inr (.inl ((radioTextObserve_cond_iff ver seg tog chars s).mpr ⟨h, hp, hm⟩))
  · exact absurd (hkept a) hchanged

/-- Settles O37: only an observation emits, and it is then a match that reaches the target of its version. -/
theorem textOnlyAfterMatchingSweep : Obligations.TextOnlyAfterMatchingSweep := by
  intro i s u x hexec hevent
  rcases exec_text_cases hexec with ⟨_, rfl⟩ | ⟨ver, seg, tog, chars, hi, rfl⟩ | ⟨_, _, _, _, _, hnone⟩
  · exact nomatch hevent
  · obtain ⟨rfl, hpass, hmatch, htarget, rfl, _⟩ := radioTextObserve_emits hevent
    obtain ⟨hterm, hbytes⟩ := s.rtEventValue_spec
    refine ⟨hpass, hterm, hbytes, ?_⟩
    rcases hi with ⟨rfl, c0, c1, c2, c3, rfl, rfl⟩ | ⟨rfl, c0, c1, rfl, rfl⟩
    · obtain ⟨rfl, rfl, rfl, rfl⟩ := (s.memRead_segWidth_a_eq_iff _ c0 c1 c2 c3).mp hmatch
      exact .inl ⟨seg, rfl, htarget⟩
    · obtain ⟨rfl, rfl⟩ := (s.memRead_segWidth_b_eq_iff _ c0 c1).mp hmatch
      exact .inr ⟨seg, rfl, htarget⟩
  · exact nomatch hnone.symm.trans hevent

/-! ### Version B with a high presence bit (`42_radio_text.md` R149) -/

/-- Once a presence bit above bit 7 is set, it stays set and keeps the bitmap from the version-B target. -/
theorem high_bits_or {m : BitVec 16} (h : m.extractLsb' 8 8 ≠ 0) (x : BitVec 16) :
    (m ||| x).extractLsb' 8 8 ≠ 0 ∧ m ||| x ≠ rtTarget .b := by
  have hor : (m ||| x).extractLsb' 8 8 ≠ 0 := by
    rw [BitVec.extractLsb'_or]
    exact fun hzero => h (BitVec.or_eq_zero_iff.mp hzero).1
  refine ⟨hor, fun htarget => hor ?_⟩
  rw [htarget]
  decide

/-- A first sweep with the given toggle and a presence bit above bit 7. -/
def State.BlockedForB (tog : Bool) (s : State) : Prop :=
  s.rtToggle = tog ∧ s.rtPass = .first ∧ s.rtBitmap.extractLsb' 8 8 ≠ 0

/-- An operation that is no RST and, if it is a radio-text operation, is RT2B with the given toggle. -/
def OnlyTextB (tog : Bool) (i : Instr) : Prop :=
  classOf i ≠ .rst ∧ (classOf i = .rt → ∃ seg c0 c1, i = .rt2b tog seg c0 c1)

theorem exec_blockedForB {tog : Bool} {i : Instr} {s u : State} (hi : OnlyTextB tog i) (h : s.BlockedForB tog)
    (hexec : exec i s = .next u) : u.rtEvent = none ∧ u.BlockedForB tog := by
  obtain ⟨rfl, hpass, hhigh⟩ := h
  by_cases hclass : classOf i = .rt
  · obtain ⟨seg, c0, c1, rfl⟩ := hi.2 hclass
    obtain rfl := Host.Outcome.next.inj hexec
    obtain ⟨hhigh', hopen⟩ := high_bits_or hhigh (segBit seg)
    obtain ⟨hbitmap, hpass'⟩ := (radioTextObserve_first_end hpass .b seg [c0, c1]).2 hopen
    obtain ⟨htoggle, hnone, _⟩ := radioTextObserve_written_frame (.inr ⟨rfl, hpass⟩) .b seg [c0, c1]
    exact ⟨hnone, htoggle, hpass', hbitmap ▸ hhigh'⟩
  · obtain ⟨v, hnext, _, hbitmap, hpass', htoggle, hnone, _⟩ := exec_keeps_text hclass hi.1 s
    obtain rfl := Host.Outcome.next.inj (hexec.symm.trans hnext)
    exact ⟨hnone, htoggle, hpass'.trans hpass, hbitmap ▸ hhigh⟩

/-- Settles O34: the high presence bit is kept by every step of such a run, and none of them ends the sweep. -/
theorem highSegmentBlocksVersionB : Obligations.HighSegmentBlocksVersionB := by
  intro s hpass hhigh hqueue n
  obtain ⟨htrace, u, hrun, _, hpass', _⟩ := run_of_kept_by_exec (event := State.rtEvent) (Q := OnlyTextB s.rtToggle)
    (P := State.BlockedForB s.rtToggle) ⟨nofun, nofun⟩ (fun _ _ h => h) (fun _ _ _ => exec_blockedForB) hqueue
    ⟨rfl, hpass, hhigh⟩ n
  exact ⟨(rtTrace_eq_eventTrace n s).trans htrace, u, hrun, hpass'⟩

end Sys2Proof.Machine
end

section
/-! PROOF. How many radio-text groups a text needs at least (`42_radio_text.md` R152 (j), `70_reset_and_hazards.md`
R224). -/
namespace Sys2Proof.Machine

/-! ### Counting presence bits -/

/-- The number of presence bits set in a bitmap. -/
def presentCount (m : BitVec 16) : Nat := (Finset.univ.filter fun i : Fin 16 => m.getLsbD i).card

@[simp] theorem presentCount_zero : presentCount 0 = 0 := by decide

/-- A group sets at most one presence bit. -/
theorem presentCount_or_segBit_le (m : BitVec 16) (seg : BitVec 4) :
    presentCount (m ||| segBit seg) ≤ presentCount m + 1 := by
  have hsub : (Finset.univ.filter fun i : Fin 16 => (m ||| segBit seg).getLsbD i) ⊆
      insert seg.toFin (Finset.univ.filter fun i : Fin 16 => m.getLsbD i) := by
    intro i hi
    simp only [Finset.mem_filter, Finset.mem_univ, true_and, BitVec.getLsbD_or, getLsbD_segBit, Bool.or_eq_true,
      decide_eq_true_eq] at hi
    simp only [Finset.mem_insert, Finset.mem_filter, Finset.mem_univ, true_and]
    exact hi.symm.imp (fun h => Fin.ext h) id
  exact (Finset.card_le_card hsub).trans (Finset.card_insert_le _ _)

/-- A lower bound for the radio-text groups still needed for a text when every target in reach has at least `k` bits:
the bits missing in this sweep, and in a first sweep another whole one. -/
def State.groupsNeeded (k : Nat) (s : State) : Nat :=
  (k - presentCount s.rtBitmap) + if s.rtPass = .first then k else 0

/-- No state needs more groups than a cleared one. -/
theorem State.groupsNeeded_le (k : Nat) (s : State) : s.groupsNeeded k ≤ 2 * k := by
  rw [State.groupsNeeded]
  split <;> omega

theorem State.groupsNeeded_of_first {s : State} (hpass : s.rtPass = .first) (k : Nat) :
    s.groupsNeeded k = (k - presentCount s.rtBitmap) + k := by
  rw [State.groupsNeeded, if_pos hpass]

theorem State.groupsNeeded_of_verify {s : State} (hpass : s.rtPass = .verify) (k : Nat) :
    s.groupsNeeded k = k - presentCount s.rtBitmap := by
  rw [State.groupsNeeded, hpass, if_neg nofun, Nat.add_zero]

theorem State.groupsNeeded_of_cleared {s : State} (hbitmap : s.rtBitmap = 0) (hpass : s.rtPass = .first) (k : Nat) :
    s.groupsNeeded k = 2 * k := by
  rw [State.groupsNeeded_of_first hpass, hbitmap, presentCount_zero]
  omega

section Observation

variable {ver : Version} {k : Nat} (hk : k ≤ presentCount (rtTarget ver))
include hk

/-- One observation brings a text at most one group nearer. -/
theorem groupsNeeded_radioTextObserve (seg : BitVec 4) (tog : Bool) (chars : List Byte) (s : State) :
    s.groupsNeeded k ≤ (radioTextObserve ver seg tog chars s).groupsNeeded k + 1 := by
  have hcount := presentCount_or_segBit_le s.rtBitmap seg
  have hle := s.groupsNeeded_le k
  rcases radioText_kinds ver seg tog chars s with h | ⟨rfl, hp⟩ | ⟨rfl, hp, hm⟩ | ⟨h, hp, hm⟩
  · obtain ⟨hbitmap, hpass⟩ := radioTextObserve_toggle_sweep h ver seg chars
    have hone := presentCount_or_segBit_le 0 seg
    rw [BitVec.ofNat_eq_ofNat, BitVec.zero_or, ← BitVec.ofNat_eq_ofNat, presentCount_zero] at hone
    rw [State.groupsNeeded_of_first hpass, hbitmap]
    omega
  · obtain ⟨hend, hopen⟩ := radioTextObserve_first_end hp ver seg chars
    by_cases htarget : s.rtBitmap ||| segBit seg = rtTarget ver
    · obtain ⟨hbitmap, hpass⟩ := hend htarget
      rw [htarget] at hcount
      rw [State.groupsNeeded_of_first hp, State.groupsNeeded_of_verify hpass, hbitmap, presentCount_zero]
      omega
    · obtain ⟨hbitmap, hpass⟩ := hopen htarget
      rw [State.groupsNeeded_of_first hp, State.groupsNeeded_of_first hpass, hbitmap]
      omega
  · obtain ⟨_, _, _, _, _, _, hend, hopen⟩ := radioTextObserve_match_end hp hm
    by_cases htarget : s.rtBitmap ||| segBit seg = rtTarget ver
    · obtain ⟨hbitmap, hpass, _⟩ := hend htarget
      rw [State.groupsNeeded_of_cleared hbitmap hpass]
      omega
    · obtain ⟨hbitmap, hpass, _⟩ := hopen htarget
      rw [State.groupsNeeded_of_verify hp, State.groupsNeeded_of_verify hpass, hbitmap]
      omega
  · rw [radioTextObserve_mismatch h hp hm, State.groupsNeeded_of_cleared s.takeVerificationMismatch_rtBitmap
      s.takeVerificationMismatch_rtPass]
    omega

/-- A text is emitted only where one more group suffices. -/
theorem groupsNeeded_of_emits {seg : BitVec 4} {tog : Bool} {chars : List Byte} {s : State}
    (hevent : (radioTextObserve ver seg tog chars s).rtEvent ≠ none) : s.groupsNeeded k ≤ 1 := by
  obtain ⟨x, hx⟩ := Option.ne_none_iff_exists'.mp hevent
  obtain ⟨_, hpass, _, htarget, _⟩ := radioTextObserve_emits hx
  have hcount := presentCount_or_segBit_le s.rtBitmap seg
  rw [htarget] at hcount
  rw [State.groupsNeeded_of_verify hpass]
  omega

end Observation

/-! ### Counting the groups of a run -/

/-- The transaction is a radio-text group. -/
def isTextTransaction (t : Transaction) : Bool := classOf (decode t) == .rt

/-- With `n` steps to go, fewer radio-text groups are to come than a text needs, and the targets of their versions have
at least `k` bits. -/
def TooFewGroups (k n : Nat) (s : State) : Prop :=
  (s.stream.take n).countP isTextTransaction < s.groupsNeeded k ∧
  ∀ t ∈ s.stream.take n, ∀ ver seg tog chars, IsTextGroup ver seg tog chars (decode t) →
    k ≤ presentCount (rtTarget ver)

theorem IsTextGroup.classOf_eq {ver : Version} {seg : BitVec 4} {tog : Bool} {chars : List Byte} {i : Instr}
    (h : IsTextGroup ver seg tog chars i) : classOf i = .rt := by
  rcases h with ⟨_, _, _, _, _, _, rfl⟩ | ⟨_, _, _, _, rfl⟩ <;> rfl

theorem tooFewGroups_step {k n : Nat} {s u : State} (h : TooFewGroups k (n + 1) s) (hstep : step s = .next u) :
    u.rtEvent = none ∧ TooFewGroups k n u := by
  obtain ⟨hcount, htargets⟩ := h
  cases hs : s.stream with
  | nil =>
    obtain rfl := Host.Outcome.next.inj ((step_nil hs).symm.trans hstep)
    rw [hs] at hcount htargets
    refine ⟨rfl, ?_⟩
    rw [TooFewGroups, State.quiet_stream, hs, List.take_nil]
    exact ⟨hcount, fun t ht => absurd ht List.not_mem_nil⟩
  | cons t rest =>
    rw [hs, List.take_succ_cons] at hcount htargets
    rw [List.countP_cons] at hcount
    have hexec := (step_cons hs).symm.trans hstep
    have hstream : u.stream = rest := by
      obtain ⟨v, hv, htail, _⟩ := step_next s
      obtain rfl := Host.Outcome.next.inj (hstep.symm.trans hv)
      rw [htail, hs, List.tail_cons]
    have htargets' := fun t' ht' => htargets t' (List.mem_cons_of_mem t ht')
    suffices u.rtEvent = none ∧ (rest.take n).countP isTextTransaction < u.groupsNeeded k by
      rw [TooFewGroups, hstream]
      exact ⟨this.1, this.2, htargets'⟩
    rcases exec_text_cases hexec with ⟨_, rfl⟩ | ⟨ver, seg, tog, chars, hi, rfl⟩ |
      ⟨_, _, hbitmap, hpass, _, hnone⟩
    · have hle := s.groupsNeeded_le k
      rw [State.groupsNeeded_of_cleared rfl rfl]
      exact ⟨rfl, by omega⟩
    · have hk := htargets t List.mem_cons_self ver seg tog chars hi
      have hnear := groupsNeeded_radioTextObserve hk seg tog chars { s with stream := rest }
      have htext : isTextTransaction t = true := beq_iff_eq.mpr hi.classOf_eq
      rw [if_pos htext] at hcount
      change s.groupsNeeded k ≤ _ at hnear
      refine ⟨by_contra fun hevent => ?_, by omega⟩
      have hlast : s.groupsNeeded k ≤ 1 := groupsNeeded_of_emits (s := { s with stream := rest }) hk hevent
      omega
    · rw [State.groupsNeeded, hbitmap, hpass]
      exact ⟨hnone, lt_of_le_of_lt (Nat.le_add_right _ _) hcount⟩

theorem rtTrace_of_tooFewGroups {k n : Nat} {s : State} (h : TooFewGroups k n s) : rtTrace n s = [] :=
  (rtTrace_eq_eventTrace n s).trans (run_of_kept (fun _ _ _ => tooFewGroups_step) n s h).1

/-- Settles O36: both targets have at least 8 bits and the version-A target 16, so a cleared state needs twice as many
groups. -/
theorem noTextBeforeTwoSweeps : Obligations.NoTextBeforeTwoSweeps := by
  intro s n hbitmap hpass
  refine ⟨fun hcount => rtTrace_of_tooFewGroups (k := 8) ⟨?_, fun _ _ ver _ _ _ _ => ?_⟩,
    fun hnoB hcount => rtTrace_of_tooFewGroups (k := 16) ⟨?_, fun t ht ver seg tog chars hi => ?_⟩⟩
  · exact hcount.trans_eq (State.groupsNeeded_of_cleared hbitmap hpass 8).symm
  · cases ver <;> decide
  · exact hcount.trans_eq (State.groupsNeeded_of_cleared hbitmap hpass 16).symm
  · rcases hi with ⟨rfl, _⟩ | ⟨rfl, c0, c1, _, hi⟩
    · decide
    · exact absurd hi (hnoB t ht tog seg c0 c1)

end Sys2Proof.Machine
end

section
/-! PROOF. Two clean version-A sweeps emit the text (`42_radio_text.md` R153 (Q1)). -/
namespace Sys2Proof.Machine

/-! ### One segment of a text -/

/-- The version-A segment that an address belongs to: four bytes each (`20_memory.md` R53). -/
def segmentOf (k : Addr) : BitVec 4 := k.extractLsb' 2 4

theorem segmentOf_toNat (k : Addr) : (segmentOf k).toNat = k.toNat / 4 := by
  revert k; decide

/-- The four characters of segment `seg` of `text`, in address order. -/
def textChars (text : TextBuf) (seg : BitVec 4) : List Byte :=
  [text[4 * seg.toNat]'(by omega), text[4 * seg.toNat + 1]'(by omega), text[4 * seg.toNat + 2]'(by omega),
    text[4 * seg.toNat + 3]'(by omega)]

/-- The observation of segment `seg` of `text`, with the given flag. -/
def observeText (tog : Bool) (text : TextBuf) (seg : BitVec 4) (s : State) : State :=
  radioTextObserve .a seg tog (textChars text seg) s

theorem exec_textGroupA (tog : Bool) (text : TextBuf) (seg : BitVec 4) (s : State) :
    exec (textGroupA tog text seg) s = .next (observeText tog text seg s) := rfl

/-- The four bytes of a segment stand one after the other, without wrap (`20_memory.md` R53). -/
theorem rtAddr_a_bytes_toNat (seg : BitVec 4) : (rtAddr .a seg + 1).toNat = 4 * seg.toNat + 1 ∧
    (rtAddr .a seg + 2).toNat = 4 * seg.toNat + 2 ∧ (rtAddr .a seg + 3).toNat = 4 * seg.toNat + 3 := by
  revert seg; decide

/-- A written group of the text puts the text's bytes at the addresses of its segment, and writes no others. -/
theorem observeText_written {s : State} {tog : Bool}
    (hw : tog ≠ s.rtToggle ∨ (tog = s.rtToggle ∧ s.rtPass = .first)) (text : TextBuf) (seg : BitVec 4) (k : Addr) :
    (observeText tog text seg s).rtByte k =
      if segmentOf k = seg then text[k.toNat]'k.isLt else (s.toggleChange tog).rtByte k := by
  obtain ⟨h1, h2, h3⟩ := rtAddr_a_bytes_toNat seg
  rw [observeText, textChars, radioTextObserve_written_rtByte_a hw]
  simp only [← BitVec.toNat_inj (x := k), ← BitVec.toNat_inj (x := segmentOf k), segmentOf_toNat, rtAddr_a_toNat,
    h1, h2, h3]
  by_cases hseg : k.toNat / 4 = seg.toNat
  · rw [if_pos hseg]
    obtain h | h | h | h : k.toNat = 4 * seg.toNat ∨ k.toNat = 4 * seg.toNat + 1 ∨ k.toNat = 4 * seg.toNat + 2 ∨
        k.toNat = 4 * seg.toNat + 3 := by omega
    all_goals simp [h]
  · rw [if_neg hseg, if_neg (by omega), if_neg (by omega), if_neg (by omega), if_neg (by omega)]

/-- The compare of a group of the text succeeds when the buffer holds the text. -/
theorem memRead_of_text {s : State} {text : TextBuf} (h : ∀ k : Addr, s.rtByte k = text[k.toNat]'k.isLt)
    (seg : BitVec 4) : s.memRead (rtAddr .a seg) (segWidth .a) = textChars text seg := by
  obtain ⟨h1, h2, h3⟩ := rtAddr_a_bytes_toNat seg
  rw [segWidth, State.memRead_four, textChars]
  simp only [h, rtAddr_a_toNat, h1, h2, h3]

/-! ### The state within a sweep -/

/-- A sweep of `text` under way, in pass `pass`: the flag is the sweep's, the presence bits are those of the segments
`done`, and the buffer holds the bytes of the segments `held`. -/
structure InSweep (tog : Bool) (text : TextBuf) (pass : Pass) (held done : List (BitVec 4)) (s : State) : Prop where
  toggle : tog = s.rtToggle
  pass : s.rtPass = pass
  bitmap : ∀ i : BitVec 4, s.rtBitmap.getLsbD i.toNat = true ↔ i ∈ done
  bytes : ∀ k : Addr, segmentOf k ∈ held → s.rtByte k = text[k.toNat]'k.isLt

section Sweep

variable {tog : Bool} {text : TextBuf} {held done : List (BitVec 4)} {s : State} {seg : BitVec 4}

/-- The queue is no part of a sweep. -/
theorem InSweep.withStream {pass : Pass} (h : InSweep tog text pass held done s) (rest : List Transaction) :
    InSweep tog text pass held done { s with stream := rest } :=
  ⟨h.toggle, h.pass, h.bitmap, h.bytes⟩

theorem getLsbD_zero_iff_mem_nil (i : BitVec 4) :
    (0 : BitVec 16).getLsbD i.toNat = true ↔ i ∈ ([] : List (BitVec 4)) := by
  simp

/-- The group's bit is added to those of the segments done. -/
theorem getLsbD_or_segBit_iff_mem {m : BitVec 16} (h : ∀ i : BitVec 4, m.getLsbD i.toNat = true ↔ i ∈ done)
    (seg i : BitVec 4) : (m ||| segBit seg).getLsbD i.toNat = true ↔ i ∈ done ++ [seg] := by
  rw [BitVec.getLsbD_or, Bool.or_eq_true, h, getLsbD_segBit, decide_eq_true_eq, BitVec.toNat_inj, List.mem_append,
    List.mem_singleton]

/-- The sweep reaches the version-A target with the last of the sixteen segments. -/
theorem target_iff_all_mem {m : BitVec 16} (h : ∀ i : BitVec 4, m.getLsbD i.toNat = true ↔ i ∈ done)
    (seg : BitVec 4) : m ||| segBit seg = rtTarget .a ↔ ∀ i, i ∈ done ++ [seg] := by
  simp only [bitmap_full_iff, h, List.mem_append, List.mem_singleton, or_comm]

/-- A toggle change starts a first sweep with the group's segment (`42_radio_text.md` R142). -/
theorem observeText_toggle (h : tog ≠ s.rtToggle) :
    InSweep tog text .first [seg] [seg] (observeText tog text seg s) ∧ (observeText tog text seg s).rtEvent = none := by
  obtain ⟨htoggle, hnone, _⟩ := radioTextObserve_written_frame (.inl h) .a seg (textChars text seg)
  obtain ⟨hbitmap, hpass⟩ := radioTextObserve_toggle_sweep h .a seg (textChars text seg)
  refine ⟨⟨htoggle.symm, hpass, fun i => ?_, fun k hk => ?_⟩, hnone⟩
  · rw [observeText, hbitmap, getLsbD_segBit, decide_eq_true_eq, BitVec.toNat_inj, List.mem_singleton]
  · rw [observeText_written (.inl h), if_pos (List.mem_singleton.mp hk)]

/-- A group of the first sweep adds its segment, and begins the verification sweep when it was the last one missing
(`42_radio_text.md` R143, R146). -/
theorem observeText_first (h : InSweep tog text .first done done s) :
    (observeText tog text seg s).rtEvent = none ∧
    ((∀ i, i ∈ done ++ [seg]) → InSweep tog text .verify (done ++ [seg]) [] (observeText tog text seg s)) ∧
    (¬ (∀ i, i ∈ done ++ [seg]) →
      InSweep tog text .first (done ++ [seg]) (done ++ [seg]) (observeText tog text seg s)) := by
  obtain ⟨rfl, hpass, hdone, hheld⟩ := h
  have hw : s.rtToggle ≠ s.rtToggle ∨ (s.rtToggle = s.rtToggle ∧ s.rtPass = .first) := .inr ⟨rfl, hpass⟩
  obtain ⟨htoggle, hnone, _⟩ := radioTextObserve_written_frame hw .a seg (textChars text seg)
  obtain ⟨hend, hopen⟩ := radioTextObserve_first_end hpass .a seg (textChars text seg)
  rw [target_iff_all_mem hdone] at hend
  rw [Ne, target_iff_all_mem hdone] at hopen
  have hbytes : ∀ k : Addr, segmentOf k ∈ done ++ [seg] →
      (observeText s.rtToggle text seg s).rtByte k = text[k.toNat]'k.isLt := by
    intro k hk
    rw [observeText_written hw, State.toggleChange_same rfl]
    split
    · rfl
    · next hne => exact hheld k ((List.mem_append.mp hk).resolve_right fun h => hne (List.mem_singleton.mp h))
  refine ⟨hnone, fun hall => ?_, fun hmissing => ?_⟩
  · obtain ⟨hbitmap, hpass'⟩ := hend hall
    exact ⟨htoggle.symm, hpass', fun i => by rw [observeText, hbitmap, getLsbD_zero_iff_mem_nil], hbytes⟩
  · obtain ⟨hbitmap, hpass'⟩ := hopen hmissing
    exact ⟨htoggle.symm, hpass', fun i => by rw [observeText, hbitmap, getLsbD_or_segBit_iff_mem hdone], hbytes⟩

/-- A buffer that holds all segments of the text has the text as its event. -/
theorem rtEventValue_of_text (h : ∀ k : Addr, s.rtByte k = text[k.toNat]'k.isLt) :
    s.rtEventValue = text.push 0x00 := by
  have htext : s.rtText = text := by
    apply Vector.ext
    intro k hk
    rw [s.rtText_get k hk, h]
    simp only [BitVec.toNat_ofNat, Nat.mod_eq_of_lt hk]
  rw [State.rtEventValue, htext, rtTerm]

/-- A group of the verification sweep matches; it adds its segment, and emits the text when it was the last one missing
(`42_radio_text.md` R144, R147). -/
theorem observeText_verify (h : InSweep tog text .verify held done s) (hheld : ∀ i, i ∈ held) :
    ((∀ i, i ∈ done ++ [seg]) → (observeText tog text seg s).rtEvent = some (text.push 0x00)) ∧
    (¬ (∀ i, i ∈ done ++ [seg]) → (observeText tog text seg s).rtEvent = none ∧
      InSweep tog text .verify held (done ++ [seg]) (observeText tog text seg s)) := by
  obtain ⟨rfl, hpass, hdone, hbytes⟩ := h
  have htext : ∀ k : Addr, s.rtByte k = text[k.toNat]'k.isLt := fun k => hbytes k (hheld _)
  have hmatch := memRead_of_text htext seg
  rw [← target_iff_all_mem hdone, observeText, radioTextObserve_match rfl hpass hmatch]
  refine ⟨fun htarget => ?_, fun hopen => ?_⟩
  · rw [if_pos htarget, State.endStep_rtEvent, rtEventValue_of_text htext]
  · rw [if_neg hopen]
    exact ⟨rfl, rfl, hpass, getLsbD_or_segBit_iff_mem hdone seg, hbytes⟩

/-! ### Runs of a sweep -/

/-- Of sixteen different segments all are done exactly when none is left. -/
theorem all_mem_iff_eq_nil {l : List (BitVec 4)} (hnodup : (done ++ seg :: l).Nodup)
    (hlength : (done ++ seg :: l).length = 16) : (∀ i, i ∈ done ++ [seg]) ↔ l = [] := by
  rw [List.append_cons] at hnodup hlength
  refine ⟨fun hall => List.eq_nil_iff_forall_not_mem.mpr fun i hi => ?_, ?_⟩
  · exact List.disjoint_of_nodup_append hnodup (hall i) hi
  · rintro rfl
    rw [List.append_nil] at hnodup hlength
    exact mem_of_sixteen hnodup hlength

/-- When the operations to come are groups of the text, the next step observes the first of them. -/
theorem step_of_textGroups {l : List (BitVec 4)} {n : Nat}
    (h : (s.stream.take (n + 1)).map decode = (seg :: l).map (textGroupA tog text)) :
    ∃ u rest, step s = .next u ∧ u = observeText tog text seg { s with stream := rest } ∧
      (u.stream.take n).map decode = l.map (textGroupA tog text) := by
  obtain ⟨rest, hstep, hrest⟩ := step_of_take_decode h
  obtain ⟨_, _, _, _, _, _, hstream, _⟩ :=
    radioTextObserve_frame .a seg tog (textChars text seg) { s with stream := rest }
  refine ⟨_, rest, hstep.trans (exec_textGroupA tog text seg _), rfl, ?_⟩
  rw [observeText, hstream, hrest]

/-- The rest of a first sweep emits nothing and ends at the start of the verification sweep, with the whole text in the
buffer. -/
theorem rtTrace_first_sweep {l q : List (BitVec 4)} {n : Nat} (hne : l ≠ [])
    (hsweep : InSweep tog text .first done done s) (hnodup : (done ++ l).Nodup) (hlength : (done ++ l).length = 16)
    (hqueue : (s.stream.take (l.length + n)).map decode = (l ++ q).map (textGroupA tog text)) :
    ∃ v, (∀ m, rtTrace (l.length + m) s = rtTrace m v) ∧ InSweep tog text .verify (done ++ l) [] v ∧
      (v.stream.take n).map decode = q.map (textGroupA tog text) := by
  induction l generalizing done s with
  | nil => exact absurd rfl hne
  | cons seg l ih =>
    rw [List.length_cons, Nat.add_right_comm] at hqueue
    obtain ⟨u, rest, hstep, hobs, hqueue'⟩ := step_of_textGroups hqueue
    obtain ⟨hnone, hend, hopen⟩ := hobs ▸ observeText_first (seg := seg) (hsweep.withStream rest)
    have htrace : ∀ m, rtTrace ((seg :: l).length + m) s = rtTrace (l.length + m) u := by
      intro m
      rw [List.length_cons, Nat.add_right_comm, rtTrace_succ hstep, hnone]
      rfl
    have hall := all_mem_iff_eq_nil hnodup hlength
    by_cases hl : l = []
    · subst hl
      refine ⟨u, fun m => ?_, hend (hall.mpr rfl), ?_⟩
      · rw [htrace, List.length_nil, Nat.zero_add]
      · rwa [List.length_nil, Nat.zero_add] at hqueue'
    · rw [List.append_cons] at hnodup hlength
      obtain ⟨v, hv, hverify, hrest⟩ := ih hl (hopen (mt hall.mp hl)) hnodup hlength hqueue'
      exact ⟨v, fun m => (htrace m).trans (hv m), List.append_cons .. ▸ hverify, hrest⟩

/-- The rest of a verification sweep emits the text at its last group and nothing before. -/
theorem rtTrace_verify_sweep {l : List (BitVec 4)} {j : Nat} (hj : l.length = j + 1)
    (hsweep : InSweep tog text .verify held done s) (hheld : ∀ i, i ∈ held) (hnodup : (done ++ l).Nodup)
    (hlength : (done ++ l).length = 16)
    (hqueue : (s.stream.take (j + 1)).map decode = l.map (textGroupA tog text)) :
    rtTrace j s = [] ∧ rtTrace (j + 1) s = [text.push 0x00] := by
  induction l generalizing done s j with
  | nil => exact nomatch hj
  | cons seg l ih =>
    obtain ⟨u, rest, hstep, hobs, hqueue'⟩ := step_of_textGroups hqueue
    obtain ⟨hend, hopen⟩ := hobs ▸ observeText_verify (seg := seg) (hsweep.withStream rest) hheld
    have hall := all_mem_iff_eq_nil hnodup hlength
    cases j with
    | zero =>
      have hl : l = [] := List.eq_nil_of_length_eq_zero (Nat.succ.inj hj)
      rw [rtTrace_succ hstep, hend (hall.mpr hl)]
      exact ⟨rfl, rfl⟩
    | succ j =>
      have hlen : l.length = j + 1 := Nat.succ.inj hj
      have hl : l ≠ [] := List.ne_nil_of_length_eq_add_one hlen
      obtain ⟨hnone, hsweep'⟩ := hopen (mt hall.mp hl)
      rw [List.append_cons] at hnodup hlength
      rw [rtTrace_succ hstep, rtTrace_succ hstep, hnone]
      exact ih hlen hsweep' hnodup hlength hqueue'

/-- A whole first sweep, begun from a cleared bitmap or by a toggle change, emits nothing and ends at the start of the
verification sweep. -/
theorem rtTrace_whole_first_sweep {p q : List (BitVec 4)} {n : Nat} (hnodup : p.Nodup) (hlength : p.length = 16)
    (hstart : (s.rtBitmap = 0 ∧ s.rtPass = .first) ∨ tog ≠ s.rtToggle)
    (hqueue : (s.stream.take (16 + n)).map decode = (p ++ q).map (textGroupA tog text)) :
    ∃ v, (∀ m, rtTrace (16 + m) s = rtTrace m v) ∧ InSweep tog text .verify p [] v ∧
      (v.stream.take n).map decode = q.map (textGroupA tog text) := by
  by_cases htog : tog = s.rtToggle
  · obtain ⟨hbitmap, hpass⟩ := hstart.resolve_right (not_not.mpr htog)
    have hsweep : InSweep tog text .first [] [] s :=
      ⟨htog, hpass, fun i => by rw [hbitmap, getLsbD_zero_iff_mem_nil], nofun⟩
    rw [← hlength] at hqueue ⊢
    exact rtTrace_first_sweep (List.ne_nil_of_length_eq_add_one hlength) hsweep hnodup hlength hqueue
  · obtain ⟨seg, l, rfl⟩ := List.exists_cons_of_length_eq_add_one hlength
    have hl : l.length = 15 := Nat.succ.inj hlength
    rw [show 16 + n = (15 + n) + 1 by omega] at hqueue
    obtain ⟨u, rest, hstep, hobs, hqueue'⟩ := step_of_textGroups hqueue
    obtain ⟨hsweep, hnone⟩ := hobs ▸ observeText_toggle (text := text) (seg := seg)
      (s := { s with stream := rest }) htog
    rw [← hl] at hqueue'
    obtain ⟨v, htrace, hverify, hrest⟩ := rtTrace_first_sweep (List.ne_nil_of_length_eq_add_one hl) hsweep hnodup
      hlength hqueue'
    refine ⟨v, fun m => ?_, hverify, hrest⟩
    rw [show 16 + m = (15 + m) + 1 by omega, rtTrace_succ hstep, hnone, ← htrace, hl]
    rfl

end Sweep

/-- Settles O35: the first sixteen groups are a first sweep, the other sixteen a verification sweep, whose last group
emits. -/
theorem twoCleanSweepsEmitText : Obligations.TwoCleanSweepsEmitText := by
  intro s text tog p q hp hplen hq hqlen hstart hqueue
  obtain ⟨v, htrace, hverify, hrest⟩ := rtTrace_whole_first_sweep (n := 16) hp hplen hstart hqueue
  rw [show 31 = 16 + 15 from rfl, show 32 = 16 + 16 from rfl, htrace, htrace]
  exact rtTrace_verify_sweep hqlen hverify (mem_of_sixteen hp hplen) hq hqlen hrest

end Sys2Proof.Machine
end

section
/-! PROOF. The two assemblers do not depend on each other's groups, nor on ignored and idle transactions
(`40_classifier.md` R104). -/
namespace Sys2Proof.Machine

/-! ### Runs without the transactions that a relation does not see -/

/-- When a relation between states survives a transaction that only the first state takes and that is not kept, and one
that both take, then running a queue and running its kept transactions gives the same events, and related states. -/
theorem run_filter {α : Type} {event : State → Option α} {R : State → State → Prop} {keep : Transaction → Bool}
    (hstream : ∀ s s' rest rest', R s s' → R { s with stream := rest } { s' with stream := rest' })
    (hdrop : ∀ t s s' u, keep t = false → R s s' → exec (decode t) s = .next u → event u = none ∧ R u s')
    (hkeep : ∀ t s s' u u', keep t = true → R s s' → exec (decode t) s = .next u → exec (decode t) s' = .next u' →
      event u = event u' ∧ R u u') (queue : List Transaction) :
    ∀ s s' : State, s.stream = queue → s'.stream = queue.filter keep → R s s' →
      eventTrace event queue.length s = eventTrace event (queue.filter keep).length s' ∧
      ∃ u v, Host.Core.run Sys2Proof.core queue.length s = .next u ∧
        Host.Core.run Sys2Proof.core (queue.filter keep).length s' = .next v ∧ R u v := by
  induction queue with
  | nil => exact fun s s' _ _ h => ⟨rfl, s, s', rfl, rfl, h⟩
  | cons t rest ih =>
    intro s s' hs hs' hR
    obtain ⟨u, hu, htail, _⟩ := step_next s
    have hexec := (step_cons hs).symm.trans hu
    rw [hs, List.tail_cons] at htail
    rw [List.length_cons, eventTrace_succ hu, run_succ hu]
    cases hk : keep t with
    | false =>
      rw [List.filter_cons_of_neg (hk ▸ Bool.false_ne_true)] at hs' ⊢
      obtain ⟨hnone, hR'⟩ := hdrop t _ _ u hk (hstream s s' rest s'.stream hR) hexec
      rw [hnone]
      exact ih u s' htail hs' hR'
    | true =>
      rw [List.filter_cons_of_pos hk] at hs' ⊢
      obtain ⟨u', hu', htail', _⟩ := step_next s'
      rw [hs', List.tail_cons] at htail'
      obtain ⟨hevent, hR'⟩ := hkeep t _ _ u u' hk (hstream s s' rest _ hR) hexec ((step_cons hs').symm.trans hu')
      rw [List.length_cons, eventTrace_succ hu', run_succ hu', hevent]
      obtain ⟨htrace, hrun⟩ := ih u u' htail htail' hR'
      exact ⟨congrArg _ htrace, hrun⟩

/-! ### The radio text -/

/-- The radio-text registers, as they are held, and the parameters are the same in both states. -/
structure State.SameTextData (s u : State) : Prop where
  buffer : u.rtBuf = s.rtBuf
  bitmap : u.rtBitmap = s.rtBitmap
  pass : u.rtPass = s.rtPass
  toggle : u.rtToggle = s.rtToggle
  cfg : u.cfg = s.cfg

theorem State.SameTextData.sameText {s u : State} (h : s.SameTextData u) : s.SameText u :=
  ⟨State.rtByte_congr h.buffer h.cfg, h.bitmap, h.pass, h.toggle⟩

section Congr

variable {s u : State} (hbuffer : u.rtBuf = s.rtBuf) (hcfg : u.cfg = s.cfg)
include hbuffer hcfg

theorem State.memRead_congr (n : Nat) : ∀ a, u.memRead a n = s.memRead a n := by
  induction n with
  | zero => exact fun _ => rfl
  | succ n ih =>
    intro a
    rw [State.memRead, State.memRead, State.rtByte_congr hbuffer hcfg, ih]

theorem State.rtEventValue_congr : u.rtEventValue = s.rtEventValue := by
  simp only [State.rtEventValue, State.rtText, State.rtByte_congr hbuffer hcfg]

theorem State.memWrite_rtBuf_congr (chars : List Byte) (a : Addr) :
    (u.memWrite a chars).rtBuf = (s.memWrite a chars).rtBuf := by
  induction chars generalizing s u a with
  | nil => exact hbuffer
  | cons v vs ih =>
    refine ih (s := s.setRtByte a v) (u := u.setRtByte a v) ?_ hcfg (a + 1)
    rw [State.setRtByte_rtBuf, State.setRtByte_rtBuf, hbuffer, hcfg]

end Congr

/-- An observation reads and writes the radio-text registers only (`40_classifier.md` R104). -/
theorem radioTextObserve_congr {s u : State} (h : s.SameTextData u) (ver : Version) (seg : BitVec 4) (tog : Bool)
    (chars : List Byte) :
    (radioTextObserve ver seg tog chars s).rtEvent = (radioTextObserve ver seg tog chars u).rtEvent ∧
    (radioTextObserve ver seg tog chars s).SameTextData (radioTextObserve ver seg tog chars u) := by
  obtain ⟨hbuffer, hbitmap, hpass, htoggle, hcfg⟩ := h
  have hread := State.memRead_congr hbuffer hcfg (segWidth ver) (rtAddr ver seg)
  have hwrite := State.memWrite_rtBuf_congr hbuffer hcfg chars (rtAddr ver seg)
  rcases radioText_kinds ver seg tog chars s with h | ⟨h, hp⟩ | ⟨h, hp, hm⟩ | ⟨h, hp, hm⟩
  · rw [radioTextObserve_toggle h, radioTextObserve_toggle (htoggle ▸ h)]
    refine ⟨rfl, ⟨?_, by simp, by simp, by simp, by simpa using hcfg⟩⟩
    exact State.memWrite_rtBuf_congr (s := { s.rtClear with rtToggle := tog })
      (u := { u.rtClear with rtToggle := tog }) rfl hcfg chars (rtAddr ver seg)
  · rw [radioTextObserve_first h hp, radioTextObserve_first (h.trans htoggle.symm) (hpass.trans hp), hbitmap]
    split
    · exact ⟨rfl, hwrite, rfl, rfl, by simpa using htoggle, by simpa using hcfg⟩
    · exact ⟨rfl, hwrite, by simp [hbitmap], by simpa using hpass, by simpa using htoggle, by simpa using hcfg⟩
  · rw [radioTextObserve_match h hp hm,
      radioTextObserve_match (h.trans htoggle.symm) (hpass.trans hp) (hread.trans hm), hbitmap]
    split
    · exact ⟨congrArg some (State.rtEventValue_congr hbuffer hcfg).symm, hbuffer, rfl, rfl, htoggle, hcfg⟩
    · exact ⟨rfl, hbuffer, by simp [hbitmap], hpass, htoggle, hcfg⟩
  · rw [radioTextObserve_mismatch h hp hm,
      radioTextObserve_mismatch (h.trans htoggle.symm) (hpass.trans hp) (hread ▸ hm)]
    exact ⟨rfl, rfl, rfl, rfl, htoggle, hcfg⟩

/-- Radio-text operations and RST do the same to the radio text from states with the same radio text. -/
theorem exec_congr_text {i : Instr} {s s' u u' : State} (hi : classOf i = .rt ∨ classOf i = .rst)
    (h : s.SameTextData s') (hexec : exec i s = .next u) (hexec' : exec i s' = .next u') :
    u.rtEvent = u'.rtEvent ∧ u.SameTextData u' := by
  cases i with
  | rst =>
    obtain rfl := Host.Outcome.next.inj hexec
    obtain rfl := Host.Outcome.next.inj hexec'
    exact ⟨rfl, rfl, rfl, rfl, congrArg Config.rtToggleReset h.cfg, h.cfg⟩
  | rt2a tog seg c0 c1 c2 c3 =>
    obtain rfl := Host.Outcome.next.inj hexec
    obtain rfl := Host.Outcome.next.inj hexec'
    exact radioTextObserve_congr h .a seg tog [c0, c1, c2, c3]
  | rt2b tog seg c0 c1 =>
    obtain rfl := Host.Outcome.next.inj hexec
    obtain rfl := Host.Outcome.next.inj hexec'
    exact radioTextObserve_congr h .b seg tog [c0, c1]
  | _ => exact absurd hi (by simp [classOf])

/-- An operation that is neither radio text nor RST keeps the radio text equal to another state's. -/
theorem exec_drop_text {i : Instr} {s s' u : State} (hi : ¬ (classOf i = .rt ∨ classOf i = .rst))
    (h : s.SameTextData s') (hexec : exec i s = .next u) : u.rtEvent = none ∧ u.SameTextData s' := by
  obtain ⟨hrt, hrst⟩ := not_or.mp hi
  obtain ⟨v, hv, hbuffer, hbitmap, hpass, htoggle, hnone, _, hcfg⟩ := exec_keeps_text hrt hrst s
  obtain rfl := Host.Outcome.next.inj (hexec.symm.trans hv)
  exact ⟨hnone, h.buffer.trans hbuffer.symm, h.bitmap.trans hbitmap.symm, h.pass.trans hpass.symm,
    h.toggle.trans htoggle.symm, h.cfg.trans hcfg.symm⟩

/-- Settles O38: the other operations leave the radio text as it is, and the kept ones do not see what they change. -/
theorem radioTextIndependentOfOtherGroups : Obligations.RadioTextIndependentOfOtherGroups := by
  intro s kept
  obtain ⟨htrace, u, v, hu, hv, hsame⟩ := run_filter (R := State.SameTextData)
    (keep := fun t => classOf (decode t) == .rt || classOf (decode t) == .rst)
    (fun _ _ _ _ h => ⟨h.buffer, h.bitmap, h.pass, h.toggle, h.cfg⟩)
    (fun _ _ _ _ hk => exec_drop_text (by simpa using hk))
    (fun _ _ _ _ _ hk => exec_congr_text (by simpa using hk))
    s.stream s { s with stream := kept } rfl rfl ⟨rfl, rfl, rfl, rfl, rfl⟩
  rw [rtTrace_eq_eventTrace, rtTrace_eq_eventTrace]
  exact ⟨htrace, u, v, hu, hv, hsame.sameText⟩

/-! ### The service name -/

/-- The service-name registers and the parameters are the same in both states. -/
structure State.SameNameData (s u : State) : Prop where
  name : s.SameName u
  cfg : u.cfg = s.cfg

/-- An observation reads and writes the service-name registers only (`40_classifier.md` R104). -/
theorem serviceNameObserve_congr {s u : State} (h : s.SameNameData u) (seg : BitVec 2) (c0 c1 : Byte) :
    (serviceNameObserve seg c0 c1 s).psEvent = (serviceNameObserve seg c0 c1 u).psEvent ∧
    (serviceNameObserve seg c0 c1 s).SameNameData (serviceNameObserve seg c0 c1 u) := by
  obtain ⟨⟨hcand, hconf, hpub⟩, hcfg⟩ := h
  have hcases := serviceNameObserve_cases seg c0 c1 u
  rw [hcand, hconf, hpub] at hcases
  rcases serviceNameObserve_cases seg c0 c1 s with ⟨hm, h⟩ | ⟨hm, htest, h⟩ | ⟨hm, hseg, heq, hne, h⟩
  · obtain ⟨_, h'⟩ := hcases.resolve_right (by simp [hm])
    rw [h, h']
    exact ⟨rfl, ⟨rfl, rfl, rfl⟩, hcfg⟩
  · obtain ⟨_, _, h'⟩ := (hcases.resolve_left (by simp [hm])).resolve_right
      fun ⟨_, hseg, heq, hne, _⟩ => htest ⟨hseg, heq, heq ▸ hne⟩
    rw [h, h']
    exact ⟨rfl, ⟨rfl, rfl, rfl⟩, hcfg⟩
  · obtain ⟨_, _, _, _, h'⟩ := (hcases.resolve_left (by simp [hm])).resolve_left
      fun ⟨_, htest, _⟩ => htest ⟨hseg, heq, heq ▸ hne⟩
    rw [h, h']
    exact ⟨rfl, ⟨rfl, rfl, rfl⟩, hcfg⟩

/-- Service-name operations and RST do the same to the service name from states with the same service name. -/
theorem exec_congr_name {i : Instr} {s s' u u' : State} (hi : classOf i = .ps ∨ classOf i = .rst)
    (h : s.SameNameData s') (hexec : exec i s = .next u) (hexec' : exec i s' = .next u') :
    u.psEvent = u'.psEvent ∧ u.SameNameData u' := by
  cases i with
  | rst =>
    obtain rfl := Host.Outcome.next.inj hexec
    obtain rfl := Host.Outcome.next.inj hexec'
    exact ⟨rfl, ⟨congrArg Config.psCandReset h.cfg, congrArg Config.psConfReset h.cfg,
      congrArg Config.psPubReset h.cfg⟩, h.cfg⟩
  | ps0a seg c0 c1 =>
    obtain rfl := Host.Outcome.next.inj hexec
    obtain rfl := Host.Outcome.next.inj hexec'
    exact serviceNameObserve_congr h seg c0 c1
  | ps0b seg c0 c1 =>
    obtain rfl := Host.Outcome.next.inj hexec
    obtain rfl := Host.Outcome.next.inj hexec'
    exact serviceNameObserve_congr h seg c0 c1
  | _ => exact absurd hi (by simp [classOf])

/-- An operation that is neither service name nor RST keeps the service name equal to another state's. -/
theorem exec_drop_name {i : Instr} {s s' u : State} (hi : ¬ (classOf i = .ps ∨ classOf i = .rst))
    (h : s.SameNameData s') (hexec : exec i s = .next u) : u.psEvent = none ∧ u.SameNameData s' := by
  obtain ⟨hps, hrst⟩ := not_or.mp hi
  obtain ⟨v, hv, hcand, hconf, hpub, hnone, _, hcfg⟩ := exec_keeps_name hps hrst s
  obtain rfl := Host.Outcome.next.inj (hexec.symm.trans hv)
  obtain ⟨⟨hcand', hconf', hpub'⟩, hcfg'⟩ := h
  exact ⟨hnone, ⟨hcand'.trans hcand.symm, hconf'.trans hconf.symm, hpub'.trans hpub.symm⟩, hcfg'.trans hcfg.symm⟩

/-- Settles O39: the other operations leave the service name as it is, and the kept ones do not see what they change. -/
theorem serviceNameIndependentOfOtherGroups : Obligations.ServiceNameIndependentOfOtherGroups := by
  intro s kept
  obtain ⟨htrace, u, v, hu, hv, hsame⟩ := run_filter (R := State.SameNameData)
    (keep := fun t => classOf (decode t) == .ps || classOf (decode t) == .rst)
    (fun _ _ _ _ h => ⟨h.name, h.cfg⟩)
    (fun _ _ _ _ hk => exec_drop_name (by simpa using hk))
    (fun _ _ _ _ _ hk => exec_congr_name (by simpa using hk))
    s.stream s { s with stream := kept } rfl rfl ⟨⟨rfl, rfl, rfl⟩, rfl⟩
  rw [psTrace_eq_eventTrace, psTrace_eq_eventTrace]
  exact ⟨htrace, u, v, hu, hv, hsame.name⟩

end Sys2Proof.Machine
end
